-- ==== Sys2Proof/Word.lean ====
section
/-! DEFINITION. The widths of the block's values (00_scope.md R9, R11). Bit 0 is the least significant. -/

namespace Sys2Proof

/-- One byte of a host frame buffer (20_memory.md R42). -/
abbrev Byte := BitVec 8

/-- A sample slot: SLOT_BITS = 16 bits, value in [9:0], [15:10] ignored on input and 0 on output (30_encoding.md R57). -/
abbrev Slot := BitVec 16

/-- A sample: SAMPLE_BITS = 10 bits (00_scope.md R9). -/
abbrev Sample := BitVec 10

/-- A register word: REG_DATA_BITS = 32 bits (00_scope.md R9, 10_state.md R16). -/
abbrev Word := BitVec 32

/-- A register index: REG_ADDR_BITS = 3 bits (00_scope.md R9, 10_state.md R16). -/
abbrev RegIndex := BitVec 3

/-- An image dimension: DIM_BITS = 16 bits (00_scope.md R9). -/
abbrev Dim := BitVec 16

/-- A sample count: COUNT_BITS = 33 bits (00_scope.md R9). -/
abbrev Count := BitVec 33

/-- MODE = REC, GEN, with REC the more significant bit (10_state.md R24). -/
abbrev Mode := BitVec 2

/-- A register-port transaction word: WE, ADDR, DATA, 36 bits (30_encoding.md R58). -/
abbrev Transaction := BitVec 36

end Sys2Proof
end

