-- ==== Sys2Proof/Syntax.lean ====
section
/-! DEFINITION. The block's instructions: the five rows of the opcode map (30_encoding.md R63, opcode_table.json),
and the two kinds of code word they are written in. -/

namespace Sys2Proof

/-- The eight registers of the register port, in index order (10_state.md R23). -/
inductive Reg where
  | ctrl | status | width | height | countLo | countHi | remainLo | remainHi
deriving DecidableEq, Repr

/-- The instructions of the opcode map (30_encoding.md R63). `diff` and `recon` are the values of the MODE field that
START latches; the other three are register-port transactions. -/
inductive Instr where
  /-- DIFF, mode 0b01 (40_sample_ops.md R73). Its operands are the slots on S and B. -/
  | diff
  /-- RECON, mode 0b10 (40_sample_ops.md R76). Its operands are the slots on B and S. -/
  | recon
  /-- REG_READ (42_register_access.md R106). The DATA field is part of the word and is ignored. -/
  | regRead (reg : Reg) (ignored : Word)
  /-- START: a write to CTRL whose DATA has bit 2 set (42_register_access.md R111). -/
  | start (data : Word)
  /-- REG_WRITE: every other write (42_register_access.md R108). -/
  | regWrite (reg : Reg) (data : Word)
deriving DecidableEq, Repr

/-- A code word: a 2-bit MODE value, or a 36-bit transaction word (30_encoding.md R58, R60, R63). -/
inductive CodeWord where
  | mode (m : Mode)
  | regport (t : Transaction)
deriving DecidableEq, Repr

end Sys2Proof
end

