-- ==== Sys2Proof/WellFormed.lean ====
section
/-! DEFINITION. Which instruction terms stand for a code word (30_encoding.md R63, R64). -/

namespace Sys2Proof

/-- A DATA word requests a job: its START bit, bit 2, is set (30_encoding.md R59). -/
def isStartData (data : Word) : Bool := data.getLsbD 2

/-- Well-formedness: a START has the START bit set, and a write to CTRL with that bit set is a START, not a REG_WRITE
(30_encoding.md R64: START takes priority). -/
def Instr.wf : Instr → Bool
  | .diff => true
  | .recon => true
  | .regRead _ _ => true
  | .start data => isStartData data
  | .regWrite reg data => !(reg == .ctrl && isStartData data)

end Sys2Proof
end

