-- ==== Sys2Proof/Decode.lean ====
section
/-! DEFINITION. Decoding and encoding (30_encoding.md R58 to R64), and the numbering of opcode_table.json's words. -/

namespace Sys2Proof

/-- Why a word is no instruction. -/
inductive DecodeError where
  /-- MODE 0b00, ILLEGAL_NONE: no mode selected (30_encoding.md R60). -/
  | modeNone
  /-- MODE 0b11, ILLEGAL_BOTH: both modes selected (30_encoding.md R60). -/
  | modeBoth
deriving DecidableEq, Repr

/-- What decoding answers. -/
inductive Decoded where
  | ok (i : Instr)
  | rejected (e : DecodeError)
deriving DecidableEq, Repr

/-- The instruction, if there is one. -/
def Decoded.toOption : Decoded → Option Instr
  | .ok i => some i
  | .rejected _ => none

/-- The register an index selects; every index is mapped (10_state.md R23). -/
def Reg.ofIndex (i : RegIndex) : Reg :=
  match i.toNat with
  | 0 => .ctrl
  | 1 => .status
  | 2 => .width
  | 3 => .height
  | 4 => .countLo
  | 5 => .countHi
  | 6 => .remainLo
  | _ => .remainHi

/-- The index of a register (10_state.md R23). -/
def Reg.index : Reg → RegIndex
  | .ctrl => 0#3
  | .status => 1#3
  | .width => 2#3
  | .height => 3#3
  | .countLo => 4#3
  | .countHi => 5#3
  | .remainLo => 6#3
  | .remainHi => 7#3

/-- WE, bit 35 of a transaction (30_encoding.md R58). -/
def Transaction.we (t : Transaction) : Bool := t.getLsbD 35

/-- ADDR, bits 34:32 of a transaction (30_encoding.md R58). -/
def Transaction.addr (t : Transaction) : RegIndex := t.extractLsb' 32 3

/-- DATA, bits 31:0 of a transaction (30_encoding.md R58). -/
def Transaction.data (t : Transaction) : Word := t.extractLsb' 0 32

/-- The transaction word T = WE, ADDR, DATA (30_encoding.md R58). -/
def Transaction.make (we : Bool) (addr : RegIndex) (data : Word) : Transaction :=
  BitVec.ofBool we ++ addr ++ data

/-- Regport decoding: total, in the priority order of 30_encoding.md R64. -/
def decodeRegport (t : Transaction) : Instr :=
  if Transaction.we t = false then .regRead (Reg.ofIndex (Transaction.addr t)) (Transaction.data t)
  else if Transaction.addr t = 0#3 ∧ isStartData (Transaction.data t) = true then .start (Transaction.data t)
  else .regWrite (Reg.ofIndex (Transaction.addr t)) (Transaction.data t)

/-- Mode decoding: op_of, with the two illegal values rejected by name (30_encoding.md R60, R63). -/
def decodeMode (m : Mode) : Decoded :=
  match m.toNat with
  | 0 => .rejected .modeNone
  | 1 => .ok .diff
  | 2 => .ok .recon
  | _ => .rejected .modeBoth

/-- The decoder, total on every code word (30_encoding.md R63, R64). -/
def decode : CodeWord → Decoded
  | .mode m => decodeMode m
  | .regport t => .ok (decodeRegport t)

/-- The encoder, written from the same tables (30_encoding.md R58, R63, R67). -/
def encode : Instr → CodeWord
  | .diff => .mode 0b01#2
  | .recon => .mode 0b10#2
  | .regRead reg ignored => .regport (Transaction.make false reg.index ignored)
  | .start data => .regport (Transaction.make true Reg.ctrl.index data)
  | .regWrite reg data => .regport (Transaction.make true reg.index data)

/-- The code word that opcode_table.json's numbering gives for an instruction of `nbits` bits with value `w`: a row of
at most one byte is a MODE value, a wider one a transaction. A bit set above the format's width is no code word.
DESIGN CHOICE (log entry 12): the block stores no words in memory, so there is no byte order here (20_memory.md R45). -/
def tableCodeWord (nbits w : Nat) : Option CodeWord :=
  if nbits ≤ 8 then
    if w < 2 ^ 2 then some (.mode (BitVec.ofNat 2 w)) else none
  else
    if w < 2 ^ 36 then some (.regport (BitVec.ofNat 36 w)) else none

/-- The instruction the decoder reads from a word numbered as opcode_table.json numbers it. -/
def decodeTableWord (nbits w : Nat) : Option Instr :=
  match tableCodeWord nbits w with
  | some c => (decode c).toOption
  | none => none

end Sys2Proof
end

