-- ==== Sys2Proof/Config.lean ====
section
/-! DEFINITION. What an implementation of the block fixes (00_scope.md R9, R10). The spec gives every value here;
its own note I1 (93_implementation_defined.md) calls the literals unaudited and asks a model to name each once.
CODEC_BASE, the one parameter left OPEN, is an argument where it is needed (Operands.portReg), as R9 asks. -/

namespace Sys2Proof.Config

/-- BIAS = 512, wired into the datapath (00_scope.md R9, R10). UNVERIFIED literal (log entry 15). -/
def bias : Int := 512

/-- MASK = 0x3FF, wired into the datapath (00_scope.md R9, R10). UNVERIFIED literal (log entry 15). -/
def mask : Int := 0x3FF

/-- WIDTH_RESET = 3840 (00_scope.md R9, 10_state.md R26). UNVERIFIED literal (log entry 15). -/
def widthReset : Dim := 3840#16

/-- HEIGHT_RESET = 2160 (00_scope.md R9, 10_state.md R27). UNVERIFIED literal (log entry 15). -/
def heightReset : Dim := 2160#16

end Sys2Proof.Config
end

