-- ==== Sys2Proof/Machine/State.lean ====
section
/-! DEFINITION. The machine's state: the block's 11 elements (10_state.md R34), its output ports, and the host's side:
the input cycles to come, the stream sequence space and the output frame buffer. Plain data throughout. -/

namespace Sys2Proof.Machine

/-- The block's complete state vector: the 11 elements that 10_state.md R34 lists. Their listed widths sum to 114 bits,
while R34's own total says 145. DESIGN CHOICE (log entry 19): the list is followed, and no further bit is state. -/
structure Block where
  /-- CTRL.GEN (R24): 1 selects DIFF. -/
  genBit : Bool
  /-- CTRL.REC (R24): 1 selects RECON. -/
  recBit : Bool
  /-- STATUS.BUSY (R25): a job is in progress. -/
  busy : Bool
  /-- STATUS.DONE (R25): sticky. -/
  done : Bool
  /-- STATUS.ERR_MODE (R25): sticky. -/
  errMode : Bool
  /-- WIDTH (R26). -/
  width : Dim
  /-- HEIGHT (R27). -/
  height : Dim
  /-- COUNT (R28): the sample count of the current or last accepted job. -/
  count : Count
  /-- REMAIN (R29): sample pairs the job has still to accept. -/
  remain : Count
  /-- OUT_REG (R31): the result of the most recent fire. -/
  outReg : Sample
  /-- OUT_FULL (R32): OUT_REG holds a result the host has not yet accepted. -/
  outFull : Bool
deriving DecidableEq, Repr

/-- The inputs the host drives in one cycle (10_state.md R15 to R19; 30_encoding.md R68). -/
structure CycleIn where
  rst : Bool
  regEn : Bool
  regWe : Bool
  regAddr : RegIndex
  regWdata : Word
  bValid : Bool
  bData : Slot
  sValid : Bool
  sData : Slot
  rReady : Bool
deriving DecidableEq, Repr

/-- The outputs the block drives in one cycle (10_state.md R16 to R19; 41_stream_transform.md R102). -/
structure PortsOut where
  bReady : Bool
  sReady : Bool
  rValid : Bool
  rData : Slot
  regRdata : Word
deriving DecidableEq, Repr

/-- A host frame buffer: bytes by offset, offsets strictly rising; an offset not listed holds no byte
(20_memory.md R42; log entry 7). -/
abbrev Memory := List Host.Cell

/-- The whole machine. `block` is the hardware; the other fields are its ports and the host's side (log entries 1, 2,
5, 6). The head of `program` is the input of the current cycle. -/
structure State where
  /-- The block's state vector (10_state.md R34). -/
  block : Block
  /-- The outputs of the cycle that ran last (41_stream_transform.md R102). -/
  ports : PortsOut
  /-- The input cycles to come, the current one first (30_encoding.md R68). -/
  program : List CycleIn
  /-- Slots accepted on B in the current or last job, in transfer order (20_memory.md R41). -/
  bSeq : List Slot
  /-- Slots accepted on S in the current or last job, in transfer order (20_memory.md R41). -/
  sSeq : List Slot
  /-- Slots transferred on R in the current or last job, in transfer order (20_memory.md R41). -/
  rSeq : List Slot
  /-- The host's output frame buffer, to which it writes stream R (20_memory.md R42). -/
  mem : Memory
deriving DecidableEq, Repr

/-- Why the machine stops with a fault: never. The block's one exception, ModeError, is a status bit and the machine
goes on (60_exceptions.md R117 to R121); no other condition is an error. DEDUCED, safe (log entry 16). -/
inductive Fault where
deriving DecidableEq, Repr

/-- Why an instruction has no meaning. -/
inductive Refusal where
  /-- Raised only by an arm of `exec` whose instruction is not modelled; no arm raises it. Safe: the run stops. -/
  | notModelled (mnemonic : String)
deriving DecidableEq, Repr

/-- The reset values of the block's elements (10_state.md R35). -/
def Block.reset : Block where
  genBit := false
  recBit := false
  busy := false
  done := false
  errMode := false
  width := Config.widthReset
  height := Config.heightReset
  count := 0#33
  remain := 0#33
  outReg := 0#10
  outFull := false

/-- The outputs of a reset cycle: all 0 (70_reset_and_hazards.md R129). -/
def PortsOut.reset : PortsOut where
  bReady := false
  sReady := false
  rValid := false
  rData := 0#16
  regRdata := 0#32

/-- The machine right after reset, with no host inputs placed, nothing transferred and an empty output buffer
(10_state.md R35; log entries 1, 5, 6). -/
def State.reset : State where
  block := Block.reset
  ports := PortsOut.reset
  program := []
  bSeq := []
  sSeq := []
  rSeq := []
  mem := []

end Sys2Proof.Machine
end

