-- ==== Sys2Proof/Machine/Operands.lean ====
section
/-! DEFINITION. Operand assembly (30_encoding.md R57 to R62): sample slots, DATA fields, MODE, the cycle's inputs. -/

namespace Sys2Proof.Machine

/-- The meaningful value of a slot, bits [9:0] as a natural number 0..1023; bits [15:10] are read by nothing
(30_encoding.md R57, R62). -/
def sampleValue (x : Slot) : Nat := (x.extractLsb' 0 10).toNat

/-- The slot that carries a result: bits [15:10] are 0 (10_state.md R38). -/
def resultSlot (r : Sample) : Slot := r.setWidth 16

/-- DATA[0] of a write to CTRL: the new GEN (30_encoding.md R59). -/
def dataGen (data : Word) : Bool := data.getLsbD 0

/-- DATA[1] of a write to CTRL: the new REC (30_encoding.md R59). -/
def dataRec (data : Word) : Bool := data.getLsbD 1

/-- DATA[1:0] of a START: the new MODE (42_register_access.md R111). -/
def dataMode (data : Word) : Mode := data.extractLsb' 0 2

/-- DATA[15:0] of a write to WIDTH or HEIGHT; DATA[31:16] is ignored (30_encoding.md R59). -/
def dataDim (data : Word) : Dim := data.extractLsb' 0 16

/-- MODE = REC, GEN, of the CTRL register (10_state.md R24). -/
def Block.mode (b : Block) : Mode := BitVec.ofBool b.recBit ++ BitVec.ofBool b.genBit

/-- The inputs of a cycle whose fields are all left out (30_encoding.md R68). -/
def CycleIn.idle : CycleIn where
  rst := false
  regEn := false
  regWe := false
  regAddr := 0#3
  regWdata := 0#32
  bValid := false
  bData := 0#16
  sValid := false
  sData := 0#16
  rReady := false

/-- The transaction word of a cycle, T = reg_we, reg_addr, reg_wdata (42_register_access.md R105). -/
def CycleIn.transaction (c : CycleIn) : Transaction := Transaction.make c.regWe c.regAddr c.regWdata

/-- The inputs of the current cycle; past the end of the placed inputs the host is idle (log entry 1). -/
def State.input (s : State) : CycleIn := s.program.headD CycleIn.idle

/-- The register that a word of a host's address space selects, when the port's eight registers stand at word address
`codecBase` (00_scope.md R9, 92 D31: CODEC_BASE is OPEN, an argument). The block itself sees only the index (20_memory.md
R49). DESIGN CHOICE (log entry 10): addresses are counted in register words, one per register, as R46 indexes them. -/
def portReg (codecBase wordAddr : Nat) : Option Reg :=
  if codecBase ≤ wordAddr ∧ wordAddr < codecBase + 8 then some (Reg.ofIndex (BitVec.ofNat 3 (wordAddr - codecBase)))
  else none

end Sys2Proof.Machine
end

