-- ==== Sys2Proof/Machine/Flags.lean ====
section
/-! DEFINITION. The status bits and every event that sets or clears them (10_state.md R25). The arithmetic sets no flag
(10_state.md R22). -/

namespace Sys2Proof.Machine

/-- The STATUS word: ERR_MODE, DONE, BUSY in bits 2, 1, 0, all else 0 (42_register_access.md R107). -/
def Block.statusWord (b : Block) : Word :=
  0#29 ++ BitVec.ofBool b.errMode ++ BitVec.ofBool b.done ++ BitVec.ofBool b.busy

/-- The CTRL word: START (bit 2) reads 0, REC, GEN in bits 1, 0, all else 0 (42_register_access.md R107). -/
def Block.ctrlWord (b : Block) : Word :=
  0#29 ++ 0#1 ++ BitVec.ofBool b.recBit ++ BitVec.ofBool b.genBit

/-- A legal MODE: DIFF or RECON (30_encoding.md R60, R61). -/
def legalMode (m : Mode) : Bool :=
  match decodeMode m with
  | .ok _ => true
  | .rejected _ => false

/-- The status bits after an accepted START with sample count `c` (42_register_access.md R112): an empty job completes
at once. -/
def Block.flagsAccepted (b : Block) (c : Count) : Block :=
  { b with errMode := false, busy := c != 0#33, done := c == 0#33 }

/-- The status bits after a rejected START (42_register_access.md R113). -/
def Block.flagsRejected (b : Block) : Block :=
  { b with errMode := true, done := false }

/-- The status bits after completion (41_stream_transform.md R97). -/
def Block.flagsCompleted (b : Block) : Block :=
  { b with busy := false, done := true }

/-- What completion waits for: every pair accepted and every result taken (41_stream_transform.md R97). -/
def Block.drained (b : Block) : Bool := b.remain == 0#33 && !b.outFull

end Sys2Proof.Machine
end

