-- ==== Sys2Proof/Machine/Ops.lean ====
section
/-! DEFINITION. The shared operations: the two pure sample operations, the frame length, host memory, register read and
write, START with its one exception ModeError, and the events of a cycle (fire, drain, completion, reset). -/

namespace Sys2Proof.Machine

/-! ## The sample operations -/

/-- `v & MASK`, that is `v mod (MASK + 1)`, as a sample (00_scope.md R11). -/
def maskSample (v : Int) : Sample := BitVec.ofNat 10 (v % (Config.mask + 1)).toNat

/-- `diff10(a, b) = (a10 - b10 + BIAS) mod 1024` (40_sample_ops.md R73). -/
def diff10 (a b : Slot) : Sample := maskSample ((sampleValue a : Int) - sampleValue b + Config.bias)

/-- `recon10(b, d) = (b10 + d10 - BIAS) mod 1024` (40_sample_ops.md R76). -/
def recon10 (b d : Slot) : Sample := maskSample ((sampleValue b : Int) + sampleValue d - Config.bias)

/-- `count(W, H) = P + 2 * floor(P / 4)` with `P = W * H`, an exact natural number (41_stream_transform.md R87). -/
def frameCount (w h : Dim) : Nat :=
  w.toNat * h.toNat + 2 * (w.toNat * h.toNat / 4)

/-- The frame length as COUNT latches it; 33 bits hold every count (41_stream_transform.md R88). -/
def frameCountWord (w h : Dim) : Count := BitVec.ofNat 33 (frameCount w h)

/-! ## Host memory -/

/-- The byte at an offset, if there is one. -/
def Memory.read : Memory → Nat → Option Byte
  | [], _ => none
  | (x, v) :: m, a => if x = a then some v else Memory.read m a

/-- Write one byte, keeping the offsets strictly rising. -/
def Memory.write : Memory → Nat → Byte → Memory
  | [], a, b => [(a, b)]
  | (x, v) :: m, a, b =>
    if a < x then (a, b) :: (x, v) :: m
    else if a = x then (a, b) :: m
    else (x, v) :: Memory.write m a b

/-- The canonical form: offsets strictly rising. An offset not listed holds no byte, so every listed entry differs from
what an unlisted offset reads as. -/
def Memory.wf : Memory → Bool
  | [] => true
  | [_] => true
  | (x, _) :: (y, v) :: m => decide (x < y) && Memory.wf ((y, v) :: m)

/-- `MemRead(addr, n)`: the unsigned value of n bytes, least significant first (20_memory.md R43); none where a byte is
missing. -/
def memRead (m : Memory) (addr : Nat) : Nat → Option Nat
  | 0 => some 0
  | n + 1 =>
    match Memory.read m addr, memRead m (addr + 1) n with
    | some b, some rest => some (b.toNat + 256 * rest)
    | _, _ => none

/-- `MemWrite(addr, n, v)`: n bytes of v, least significant first (20_memory.md R43). -/
def memWrite (m : Memory) (addr : Nat) : Nat → Nat → Memory
  | 0, _ => m
  | n + 1, v => memWrite (Memory.write m addr (BitVec.ofNat 8 v)) (addr + 1) n (v / 256)

/-- The offset of sample i of a frame buffer (20_memory.md R43). -/
def sampleAddr (i : Nat) : Nat := 2 * i

/-- Sample i of a frame buffer: `MemRead(2*i, 2)` (20_memory.md R43). -/
def readSample (m : Memory) (i : Nat) : Option Slot :=
  (memRead m (sampleAddr i) 2).map (BitVec.ofNat 16)

/-- Store sample i of a frame buffer: `MemWrite(2*i, 2, v)` (20_memory.md R43). -/
def writeSample (m : Memory) (i : Nat) (v : Slot) : Memory := memWrite m (sampleAddr i) 2 v.toNat

/-! ## The register port -/

/-- `reg_read(st, i)` (42_register_access.md R107). -/
def regRead (b : Block) : Reg → Word
  | .ctrl => b.ctrlWord
  | .status => b.statusWord
  | .width => b.width.setWidth 32
  | .height => b.height.setWidth 32
  | .countLo => b.count.extractLsb' 0 32
  | .countHi => (b.count.extractLsb' 32 1).setWidth 32
  | .remainLo => b.remain.extractLsb' 0 32
  | .remainHi => (b.remain.extractLsb' 32 1).setWidth 32

/-- `GEN <- DATA[0] ; REC <- DATA[1]` (42_register_access.md R110, R111). -/
def State.storeMode (s : State) (data : Word) : State :=
  { s with block := { s.block with genBit := dataGen data, recBit := dataRec data } }

/-- The one exception, ModeError: ERR_MODE set, DONE cleared, nothing else written and control transferred nowhere
(42_register_access.md R113; 60_exceptions.md R118, R126). -/
def State.raiseModeError (s : State) : State :=
  { s with block := s.block.flagsRejected }

/-- `accept_start(st)`: latch COUNT and REMAIN and set the status bits (42_register_access.md R112). It also ends a
ModeError, which has no return instruction: ERR_MODE is cleared here (60_exceptions.md R127). The stream sequences are
numbered from 0 again for the new job (20_memory.md R41; log entry 5). -/
def State.acceptStart (s : State) : State :=
  let c := frameCountWord s.block.width s.block.height
  { s with
    block := { s.block with count := c, remain := c }.flagsAccepted c
    bSeq := []
    sSeq := []
    rSeq := [] }

/-- `START(st, DATA)`: the written MODE is stored whether legal or not, then accepted or rejected
(42_register_access.md R111). -/
def State.startJob (s : State) (data : Word) : State :=
  if legalMode (dataMode data) then (s.storeMode data).acceptStart
  else (s.storeMode data).raiseModeError

/-- `reg_write(st, i, DATA)` (42_register_access.md R110). -/
def State.writeReg (s : State) (reg : Reg) (data : Word) : State :=
  match reg with
  | .ctrl => if isStartData data then s.startJob data else s.storeMode data
  | .width => { s with block := { s.block with width := dataDim data } }
  | .height => { s with block := { s.block with height := dataDim data } }
  | .status => s
  | .countLo => s
  | .countHi => s
  | .remainLo => s
  | .remainHi => s

/-! ## The events of a cycle -/

/-- The fire condition (41_stream_transform.md R93). -/
def fires (b : Block) (c : CycleIn) : Bool :=
  !c.rst && b.busy && b.remain != 0#33 && c.bValid && c.sValid && (!b.outFull || c.rReady)

/-- The drain condition (41_stream_transform.md R95). -/
def drains (b : Block) (c : CycleIn) : Bool := !c.rst && b.outFull && c.rReady

/-- A fire with the given result: both inputs are accepted together, the result is buffered and REMAIN falls by 1
(41_stream_transform.md R93, R94). The accepted slots join their stream's sequence (20_memory.md R41). -/
def State.fire (s : State) (result : Sample) : State :=
  { s with
    block := { s.block with outReg := result, outFull := true, remain := s.block.remain - 1#33 }
    ports := { s.ports with bReady := true, sReady := true }
    bSeq := s.bSeq ++ [s.input.bData]
    sSeq := s.sSeq ++ [s.input.sData] }

/-- A fire, if the cycle fires; otherwise no input is consumed (41_stream_transform.md R93). -/
def State.fireIf (s : State) (result : Sample) : State :=
  if fires s.block s.input then s.fire result else s

/-- The drain of this cycle, if there is one: the host takes `zext_16(OUT_REG)` and writes it to its output frame buffer
as the next sample (41_stream_transform.md R95; 20_memory.md R42, R43; log entry 6). A fire later in the same cycle fills
OUT_REG again (R96; log entry 8). -/
def State.drain (s : State) : State :=
  if drains s.block s.input then
    { s with
      block := { s.block with outFull := false }
      rSeq := s.rSeq ++ [resultSlot s.block.outReg]
      mem := writeSample s.mem s.rSeq.length (resultSlot s.block.outReg) }
  else s

/-- Completion at the end of a cycle that began with BUSY = `wasBusy` (41_stream_transform.md R97). -/
def State.complete (s : State) (wasBusy : Bool) : State :=
  if wasBusy && s.block.drained then { s with block := s.block.flagsCompleted } else s

/-- The outputs as the cycle begins, from pre-edge state: a fire raises the two readies and a REG_READ gives reg_rdata
(41_stream_transform.md R102). -/
def State.beginCycle (s : State) : State :=
  { s with ports := ⟨false, false, s.block.outFull, resultSlot s.block.outReg, 0#32⟩ }

/-- The clock edge moves the host to its next input cycle. -/
def State.advance (s : State) : State := { s with program := s.program.tail }

/-- A cycle with rst = 1 (70_reset_and_hazards.md R129, R130): every element takes its reset value, the outputs are 0 and
nothing is transferred. The host's frame buffer stays; no job is left, so the stream sequences are empty (log entry 5). -/
def State.resetCycle (s : State) : State :=
  { s with block := Block.reset, ports := PortsOut.reset, program := s.program.tail, bSeq := [], sSeq := [], rSeq := [] }

/-- Sequence two phases of a cycle; a stop in the first is the answer. -/
def andThen (o : Host.Outcome State Fault Refusal) (f : State → Host.Outcome State Fault Refusal) :
    Host.Outcome State Fault Refusal :=
  match o with
  | .next s => f s
  | .fault r => .fault r
  | .refused r => .refused r

/-- The operation of a job, `op_of(REC, GEN)` (41_stream_transform.md R91). A running job's MODE is legal; for the two
values no run reaches, the choice is the else branch of R93's and R101's pseudocode. DEDUCED (log entry 4). -/
def jobInstr (b : Block) : Instr :=
  match decode (.mode b.mode) with
  | .ok i => i
  | .rejected _ => .recon

/-- The register command of a cycle, if it makes an access (42_register_access.md R105; 30_encoding.md R64). -/
def portInstr (c : CycleIn) : Option Instr :=
  if c.regEn then (decode (.regport c.transaction)).toOption else none

end Sys2Proof.Machine
end

