-- ==== Sys2Proof/Machine/Codec.lean ====
section
/-! DEFINITION. The two per-sample operations as a job applies them, once per fire (40_sample_ops.md; 41_stream_transform.md
R93). In a cycle that does not fire they wait: no input is consumed. Drain and completion belong to the cycle (Step.lean;
log entry 18). -/

namespace Sys2Proof.Machine

/-- DIFF: `diff10(S, B)`, a = S, b = B (40_sample_ops.md R73; 41_stream_transform.md R93). -/
def execDiff (s : State) : Host.Outcome State Fault Refusal :=
  .next (s.fireIf (diff10 s.input.sData s.input.bData))

/-- RECON: `recon10(B, S)`, b = B, d = S (40_sample_ops.md R76; 41_stream_transform.md R93). -/
def execRecon (s : State) : Host.Outcome State Fault Refusal :=
  .next (s.fireIf (recon10 s.input.bData s.input.sData))

end Sys2Proof.Machine
end

