-- ==== Sys2Proof/Machine/RegPort.lean ====
section
/-! DEFINITION. The register-port commands (42_register_access.md R105 to R114). -/

namespace Sys2Proof.Machine

/-- REG_READ: the register's pre-edge value on reg_rdata; no state element changes; DATA is ignored
(42_register_access.md R106). -/
def execRegRead (reg : Reg) (_ignored : Word) (s : State) : Host.Outcome State Fault Refusal :=
  .next { s with ports := { s.ports with regRdata := regRead s.block reg } }

/-- START: ignored in full while BUSY = 1 (42_register_access.md R109, R111, R114). -/
def execStart (data : Word) (s : State) : Host.Outcome State Fault Refusal :=
  .next (if s.block.busy then s else s.startJob data)

/-- REG_WRITE: ignored while BUSY = 1 (42_register_access.md R108, R109). -/
def execRegWrite (reg : Reg) (data : Word) (s : State) : Host.Outcome State Fault Refusal :=
  .next (if s.block.busy then s else s.writeReg reg data)

end Sys2Proof.Machine
end

