-- ==== Sys2Proof/Machine/Dispatch.lean ====
section
/-! DEFINITION. One arm per instruction. -/

namespace Sys2Proof.Machine

/-- The meaning of an instruction. -/
def exec (i : Instr) (s : State) : Host.Outcome State Fault Refusal :=
  match i with
  | .diff => Sys2Proof.Machine.execDiff s
  | .recon => Sys2Proof.Machine.execRecon s
  | .regRead reg ignored => Sys2Proof.Machine.execRegRead reg ignored s
  | .start data => Sys2Proof.Machine.execStart data s
  | .regWrite reg data => Sys2Proof.Machine.execRegWrite reg data s

end Sys2Proof.Machine
end

