-- ==== Sys2Proof/Machine/Step.lean ====
section
/-! DEFINITION. One clock cycle (41_stream_transform.md R101, R102), and how a code word is placed to run next. -/

namespace Sys2Proof.Machine

/-- The register port's part of a cycle: the command, if there is one (42_register_access.md R105). -/
def portPhase (s : State) : Host.Outcome State Fault Refusal :=
  match portInstr s.input with
  | some i => exec i s
  | none => .next s

/-- The stream part of a cycle that began with BUSY = `wasBusy`: the job's operation (41_stream_transform.md R91, R93). -/
def streamPhase (wasBusy : Bool) (s : State) : Host.Outcome State Fault Refusal :=
  if wasBusy then exec (jobInstr s.block) s else .next s

/-- One clock cycle (41_stream_transform.md R101). With rst = 1 every element takes its reset value. Otherwise the drain,
the register command, the job's operation and completion act, each on elements the others leave alone (R101's note; log
entry 8), all of them gated by BUSY as it stood before the edge. -/
def step (s : State) : Host.Outcome State Fault Refusal :=
  if s.input.rst then .next s.resetCycle
  else
    andThen (portPhase s.beginCycle.drain) fun t =>
    andThen (streamPhase s.block.busy t) fun u =>
    .next (u.complete s.block.busy).advance

/-- The current cycle's inputs replaced; nothing else changes. -/
def State.withInput (s : State) (c : CycleIn) : State := { s with program := c :: s.program.tail }

/-- A job of the given MODE loaded, as an accepted START would leave it, with an empty output buffer and the next cycle
offering both inputs, so that the next step fires (log entry 9). A frame of no samples is loaded as 1 x 1. -/
def State.loadJob (s : State) (m : Mode) : State :=
  let idle : Block := { s.block with busy := false, outFull := false }
  let sized : Block :=
    if frameCountWord idle.width idle.height = 0#33 then { idle with width := 1#16, height := 1#16 } else idle
  ({ s with block := sized }.startJob (m.setWidth 32)).withInput
    { s.input with rst := false, regEn := false, bValid := true, sValid := true }

/-- The state in which the very next step runs the instruction that decodeTableWord reads from the same word: a
transaction is placed on the register port of the next cycle, a MODE value is loaded as a running job (log entry 9). -/
def State.withFetchWord (s : State) (nbits w : Nat) : State :=
  match tableCodeWord nbits w with
  | some (.mode m) => s.loadJob m
  | some (.regport t) =>
    s.withInput { s.input with
      rst := false
      regEn := true
      regWe := Transaction.we t
      regAddr := Transaction.addr t
      regWdata := Transaction.data t }
  | none => s

end Sys2Proof.Machine
end

