-- ==== Sys2Proof/Machine/Frame.lean ====
section
/-! DEFINITION. The frame layout (20_memory.md R42 to R44) and the host's conversion between a frame buffer and the
slots it offers (70_reset_and_hazards.md R134). -/

namespace Sys2Proof.Machine

/-- The three planes of a frame. Which chroma plane is U is not in the spec (20_memory.md R44). -/
inductive Plane where
  | luma | chroma1 | chroma2
deriving DecidableEq, Repr

/-- P = W * H, the luma plane's sample count (20_memory.md R44). -/
def lumaCount (w h : Dim) : Nat := w.toNat * h.toNat

/-- Q = floor(P / 4), each chroma plane's sample count (20_memory.md R44). -/
def chromaCount (w h : Dim) : Nat := lumaCount w h / 4

/-- The first sample index of a plane (20_memory.md R44). -/
def planeStart (w h : Dim) : Plane → Nat
  | .luma => 0
  | .chroma1 => lumaCount w h
  | .chroma2 => lumaCount w h + chromaCount w h

/-- The number of samples of a plane (20_memory.md R44). -/
def planeSize (w h : Dim) : Plane → Nat
  | .luma => lumaCount w h
  | .chroma1 => chromaCount w h
  | .chroma2 => chromaCount w h

/-- The plane that sample i of a frame lies in; none past the frame's end (20_memory.md R44). -/
def planeOf (w h : Dim) (i : Nat) : Option Plane :=
  if i < lumaCount w h then some .luma
  else if i < lumaCount w h + chromaCount w h then some .chroma1
  else if i < lumaCount w h + 2 * chromaCount w h then some .chroma2
  else none

/-- The frame buffer that holds the given slots from sample i on. -/
def writeFrame (m : Memory) (i : Nat) : List Slot → Memory
  | [] => m
  | v :: vs => writeFrame (writeSample m i v) (i + 1) vs

/-- A cycle that offers one slot on B and one on S and is ready for the output (30_encoding.md R68). -/
def CycleIn.offerBoth (b s : Slot) : CycleIn :=
  { CycleIn.idle with bValid := true, bData := b, sValid := true, sData := s, rReady := true }

/-- A cycle that only takes a result (30_encoding.md R68). -/
def CycleIn.take : CycleIn := { CycleIn.idle with rReady := true }

/-- A cycle in which the host offers sample i of its two files. A sample that is not wholly in the file is not offered:
the host has nothing to offer (41_stream_transform.md R99; log entry 14). -/
def CycleIn.offerSample (fileB fileS : Memory) (i : Nat) : CycleIn :=
  { CycleIn.idle with
    bValid := (readSample fileB i).isSome
    bData := (readSample fileB i).getD 0#16
    sValid := (readSample fileS i).isSome
    sData := (readSample fileS i).getD 0#16
    rReady := true }

/-- The host's input cycles for a frame of n samples, in frame order, and one more to take the last result
(70_reset_and_hazards.md R134, step 4). -/
def offerFrame (fileB fileS : Memory) (n : Nat) : List CycleIn :=
  (List.range n).map (CycleIn.offerSample fileB fileS) ++ [CycleIn.take]

end Sys2Proof.Machine
end

