-- ==== Sys2Proof/Machine/Program.lean ====
section
/-! DEFINITION. The spec's program notation as input cycles: commands, pseudo-instructions and stream fields
(30_encoding.md R67, R68, R69). -/

namespace Sys2Proof.Machine

/-- A cycle that makes one register access with the given transaction word (30_encoding.md R68). -/
def CycleIn.command (t : Transaction) : CycleIn :=
  { CycleIn.idle with
    regEn := true
    regWe := Transaction.we t
    regAddr := Transaction.addr t
    regWdata := Transaction.data t }

/-- `rd REG` (30_encoding.md R67). -/
def CycleIn.rd (reg : Reg) : CycleIn := .command (Transaction.make false reg.index 0#32)

/-- `wr REG, imm` (30_encoding.md R67). -/
def CycleIn.wr (reg : Reg) (imm : Word) : CycleIn := .command (Transaction.make true reg.index imm)

/-- `rst` (30_encoding.md R68). -/
def CycleIn.reset : CycleIn := { CycleIn.idle with rst := true }

/-- `nop`: no register access (30_encoding.md R69). -/
def CycleIn.nop : CycleIn := CycleIn.idle

/-- `mode.gen` = `wr CTRL, 0x1` (30_encoding.md R69). -/
def CycleIn.modeGen : CycleIn := .wr .ctrl 0x1#32

/-- `mode.rec` = `wr CTRL, 0x2` (30_encoding.md R69). -/
def CycleIn.modeRec : CycleIn := .wr .ctrl 0x2#32

/-- `start.gen` = `wr CTRL, 0x5` (30_encoding.md R69). -/
def CycleIn.startGen : CycleIn := .wr .ctrl 0x5#32

/-- `start.rec` = `wr CTRL, 0x6` (30_encoding.md R69). -/
def CycleIn.startRec : CycleIn := .wr .ctrl 0x6#32

/-- `dim W, H` = `wr WIDTH, W` then `wr HEIGHT, H`, two cycles (30_encoding.md R69). -/
def CycleIn.dim (w h : Word) : List CycleIn := [.wr .width w, .wr .height h]

/-- `poll` = `rd STATUS` (30_encoding.md R69). -/
def CycleIn.poll : CycleIn := .rd .status

/-- `B=<slot>` added to a cycle (30_encoding.md R68). -/
def CycleIn.withB (c : CycleIn) (slot : Slot) : CycleIn := { c with bValid := true, bData := slot }

/-- `S=<slot>` added to a cycle (30_encoding.md R68). -/
def CycleIn.withS (c : CycleIn) (slot : Slot) : CycleIn := { c with sValid := true, sData := slot }

/-- `R` added to a cycle (30_encoding.md R68). -/
def CycleIn.withR (c : CycleIn) : CycleIn := { c with rReady := true }

end Sys2Proof.Machine
end

