-- ==== Sys2Proof/Safety.lean ====
section
/-! DEFINITION. The terms claims are stated in: the spec's own next-state and output functions transcribed whole, the
law a job's results obey, the invariant of a run, and the host's duties. The machine does not use them. -/

namespace Sys2Proof.Machine

/-! ## The spec's functions, transcribed -/

/-- `accept_start` on the block alone (42_register_access.md R112). -/
def SpecBlock.acceptStart (st : Block) : Block :=
  let p := st.width.toNat * st.height.toNat
  let c := p + 2 * (p / 4)
  if c = 0 then { st with count := 0#33, remain := 0#33, errMode := false, busy := false, done := true }
  else { st with count := BitVec.ofNat 33 c, remain := BitVec.ofNat 33 c, errMode := false, busy := true, done := false }

/-- `reg_write` with START and ModeError, on the block alone (42_register_access.md R110 to R113). -/
def SpecBlock.regWrite (st : Block) (addr : Nat) (data : Word) : Block :=
  if addr = 0 then
    let st1 := { st with genBit := data.getLsbD 0, recBit := data.getLsbD 1 }
    if data.getLsbD 2 then
      if data.getLsbD 0 != data.getLsbD 1 then SpecBlock.acceptStart st1
      else { st1 with errMode := true, done := false }
    else st1
  else if addr = 2 then { st with width := data.setWidth 16 }
  else if addr = 3 then { st with height := data.setWidth 16 }
  else st

/-- `fire` (41_stream_transform.md R93, R101). -/
def SpecBlock.fire (st : Block) (c : CycleIn) : Bool :=
  st.busy && st.remain != 0#33 && c.bValid && c.sValid && (!st.outFull || c.rReady)

/-- `step(st, in)`, the complete next-state function (41_stream_transform.md R101): all reads see pre-edge values. -/
def SpecBlock.step (st : Block) (c : CycleIn) : Block :=
  if c.rst then Block.reset
  else
    let nx1 : Block :=
      if SpecBlock.fire st c then
        { st with
          outReg := if st.genBit && !st.recBit then diff10 c.sData c.bData else recon10 c.bData c.sData
          outFull := true
          remain := st.remain - 1#33 }
      else if st.outFull && c.rReady then { st with outFull := false }
      else st
    let nx2 : Block :=
      if st.busy && nx1.remain == 0#33 && !nx1.outFull then { nx1 with busy := false, done := true } else nx1
    if c.regEn && c.regWe && !st.busy then SpecBlock.regWrite nx2 c.regAddr.toNat c.regWdata else nx2

/-- `reg_read(st, i)` bit by bit (42_register_access.md R107). -/
def SpecBlock.regReadBit (st : Block) (addr bit : Nat) : Bool :=
  match addr with
  | 0 => if bit = 0 then st.genBit else if bit = 1 then st.recBit else false
  | 1 => if bit = 0 then st.busy else if bit = 1 then st.done else if bit = 2 then st.errMode else false
  | 2 => st.width.getLsbD bit
  | 3 => st.height.getLsbD bit
  | 4 => if bit < 32 then st.count.getLsbD bit else false
  | 5 => if bit = 0 then st.count.getLsbD 32 else false
  | 6 => if bit < 32 then st.remain.getLsbD bit else false
  | 7 => if bit = 0 then st.remain.getLsbD 32 else false
  | _ => false

/-- The output function (41_stream_transform.md R102): what the ports carry in a cycle with inputs `c`. -/
structure SpecOutputs (st : Block) (c : CycleIn) (p : PortsOut) : Prop where
  bReady : p.bReady = (!c.rst && SpecBlock.fire st c)
  sReady : p.sReady = (!c.rst && SpecBlock.fire st c)
  rValid : p.rValid = (!c.rst && st.outFull)
  rDataHigh : p.rData.extractLsb' 10 6 = 0#6
  rDataLow : p.rData.extractLsb' 0 10 = if c.rst then 0#10 else st.outReg
  regRdata : ∀ bit, p.regRdata.getLsbD bit =
    (!c.rst && c.regEn && !c.regWe && SpecBlock.regReadBit st c.regAddr.toNat bit)

/-! ## A job's law and the invariant of a run -/

/-- The result slot a job of the given MODE produces from a pair (41_stream_transform.md R98). -/
def pairResult (m : Mode) (b s : Slot) : Slot :=
  if m = 0b01#2 then resultSlot (diff10 s b) else resultSlot (recon10 b s)

/-- A result that waits in OUT_REG. -/
def Block.pending (b : Block) : List Slot := if b.outFull then [resultSlot b.outReg] else []

/-- The invariant of a run: the spec's statements about every reachable state, with the host's records tied to the
block's counters. -/
structure JobInv (s : State) : Prop where
  /-- 10_state.md R33. -/
  idleEmpty : s.block.busy = false → s.block.remain = 0#33 ∧ s.block.outFull = false
  /-- BUSY is 1 exactly while a job is in progress (10_state.md R25, 41_stream_transform.md R97). -/
  busyWork : s.block.busy = true → s.block.remain ≠ 0#33 ∨ s.block.outFull = true
  /-- A running job's MODE is legal (41_stream_transform.md R91). -/
  busyMode : s.block.busy = true → s.block.mode = 0b01#2 ∨ s.block.mode = 0b10#2
  /-- A running job's COUNT is the frame length of the frozen dimensions (20_memory.md R56, 10_state.md R28). -/
  busyCount : s.block.busy = true → s.block.count.toNat = frameCount s.block.width s.block.height
  /-- DONE and ERR_MODE against BUSY (10_state.md R25). -/
  doneIdle : s.block.done = true → s.block.busy = false
  errIdle : s.block.errMode = true → s.block.busy = false ∧ s.block.done = false
  /-- COUNT - REMAIN pairs have been accepted, in lockstep (41_stream_transform.md R92, 20_memory.md R47). -/
  acceptedB : s.bSeq.length + s.block.remain.toNat = s.block.count.toNat
  acceptedS : s.sSeq.length = s.bSeq.length
  /-- COUNT - REMAIN - OUT_FULL results have been transferred (41_stream_transform.md R92). -/
  delivered : s.rSeq.length + s.block.outFull.toNat = s.bSeq.length
  /-- The results are the job's operation on the pairs, in order (41_stream_transform.md R98, 20_memory.md R52). -/
  results : s.block.busy = true → s.rSeq ++ s.block.pending = List.zipWith (pairResult s.block.mode) s.bSeq s.sSeq
  /-- The host's output file holds the transferred results as samples (20_memory.md R42, R43). -/
  buffer : ∀ k, k < s.rSeq.length → readSample s.mem k = s.rSeq[k]?
  /-- The frame buffer keeps its canonical form. -/
  memWf : Memory.wf s.mem = true

/-! ## Commands, host duties and runs -/

/-- The cycle carries a write command: START or REG_WRITE. -/
def CycleIn.writes (c : CycleIn) : Bool := c.regEn && c.regWe

/-- The cycle with its register access taken out. -/
def CycleIn.noAccess (c : CycleIn) : CycleIn := { c with regEn := false }

/-- A START of DATA is accepted in this cycle (42_register_access.md R111, R112). -/
def acceptsStart (s : State) : Prop :=
  s.input.rst = false ∧ s.block.busy = false ∧
    ∃ data, portInstr s.input = some (.start data) ∧ data.getLsbD 0 ≠ data.getLsbD 1

/-- The host offers both inputs, can take the output and does not reset (70_reset_and_hazards.md R139). -/
def CycleIn.offersAndTakes (c : CycleIn) : Bool := !c.rst && c.bValid && c.sValid && c.rReady

/-- How many served cycles a running job has left at most: one for each pair still to accept, by its fire, and one for the
drain once REMAIN = 0 (70_reset_and_hazards.md R139). -/
def Block.workLeft (b : Block) : Nat := b.remain.toNat + 1

/-- The next `k` input cycles of the host, idle ones past the end of the placed list. -/
def State.nextInputs (s : State) (k : Nat) : List CycleIn :=
  (List.range k).map fun i => s.program.getD i CycleIn.idle

/-- The state after `k` cycles is `t`. -/
def reaches (k : Nat) (s t : State) : Prop := Sys2Proof.core.run k s = .next t

/-- The frame buffer holds samples 0 to n - 1. -/
def holdsFrame (m : Memory) (n : Nat) : Prop := ∀ i, i < n → (readSample m i).isSome = true

end Sys2Proof.Machine
end

