-- ==== Sys2Proof/Certificates/Slice0/Obligations.lean ====
section
/-! DEFINITION. The statements about the machine. Each docstring names the rule of spec/ it comes from. -/

open Sys2Proof Sys2Proof.Machine

/-! ## Encoding -/

/-- 30_encoding.md R70: the encoding examples. -/
def Obligations.EncodingExamplesDecode : Prop :=
  decode (.regport 0xA00000004#36) = .ok (.regWrite .width 4#32) ∧
  decode (.regport 0xB00000002#36) = .ok (.regWrite .height 2#32) ∧
  decode (.regport 0x800000005#36) = .ok (.start 5#32) ∧
  decode (.regport 0x800000006#36) = .ok (.start 6#32) ∧
  decode (.regport 0x800000007#36) = .ok (.start 7#32) ∧
  decode (.regport 0x800000004#36) = .ok (.start 4#32) ∧
  decode (.regport 0x800000003#36) = .ok (.regWrite .ctrl 3#32) ∧
  decode (.regport 0x100000000#36) = .ok (.regRead .status 0#32) ∧
  decode (.regport 0x600000000#36) = .ok (.regRead .remainLo 0#32) ∧
  decode (.regport 0x9FFFFFFFF#36) = .ok (.regWrite .status 0xFFFFFFFF#32) ∧
  decode (.regport 0xC00000004#36) = .ok (.regWrite .countLo 4#32) ∧
  decode (.mode (dataMode 5#32)) = .ok .diff ∧
  decode (.mode (dataMode 6#32)) = .ok .recon ∧
  decode (.mode (dataMode 7#32)) = .rejected .modeBoth ∧
  decode (.mode (dataMode 4#32)) = .rejected .modeNone

/-- Decode after encode, for every well-formed instruction and every operand value (30_encoding.md R58, R63, R64). -/
def Obligations.DecodeOfEncodeIsIdentity : Prop :=
  ∀ i : Instr, i.wf = true → decode (encode i) = .ok i

/-- Encode after decode: every code word that decodes has one meaning and loses no bit (30_encoding.md R58, R63, R64). -/
def Obligations.EncodeOfDecodeIsIdentity : Prop :=
  ∀ (c : CodeWord) (i : Instr), decode c = .ok i → encode i = c ∧ i.wf = true

/-- 30_encoding.md R64 with R63's match and mask: each of the 2^36 words falls in exactly one row and decodes with its
index T[34:32] and data T[31:0]. -/
def Obligations.EveryTransactionDecodesInItsRow : Prop :=
  ∀ T : Transaction,
    (T &&& 0x800000000#36 = 0x000000000#36 →
      ∃ r : Reg, r.index = T.extractLsb' 32 3 ∧ decode (.regport T) = .ok (.regRead r (T.extractLsb' 0 32))) ∧
    (T &&& 0xF00000004#36 = 0x800000004#36 →
      decode (.regport T) = .ok (.start (T.extractLsb' 0 32))) ∧
    (T &&& 0x800000000#36 = 0x800000000#36 → T &&& 0xF00000004#36 ≠ 0x800000004#36 →
      ∃ r : Reg, r.index = T.extractLsb' 32 3 ∧ decode (.regport T) = .ok (.regWrite r (T.extractLsb' 0 32)))

/-- 30_encoding.md R69: the pseudo-instructions' transaction words, and nop's lack of one. -/
def Obligations.PseudoInstructionsExpand : Prop :=
  CycleIn.nop.regEn = false ∧
  (CycleIn.modeGen.regEn = true ∧ CycleIn.modeGen.transaction = 0x800000001#36) ∧
  (CycleIn.modeRec.regEn = true ∧ CycleIn.modeRec.transaction = 0x800000002#36) ∧
  (CycleIn.startGen.regEn = true ∧ CycleIn.startGen.transaction = 0x800000005#36) ∧
  (CycleIn.startRec.regEn = true ∧ CycleIn.startRec.transaction = 0x800000006#36) ∧
  (CycleIn.poll.regEn = true ∧ CycleIn.poll.transaction = 0x100000000#36) ∧
  ∀ w h : Word, (CycleIn.dim w h).map (fun c => (c.regEn, c.transaction)) =
    [(true, 0xA00000000#36 + w.setWidth 36), (true, 0xB00000000#36 + h.setWidth 36)]

/-- How a code word comes to run (log entry 9, DESIGN CHOICE): a placed transaction is the next cycle's command and
nothing but the next input changes; a placed legal MODE value is a running job of that operation about to fire. -/
def Obligations.PlacedWordRunsNext : Prop :=
  (∀ (s : State) (w : Nat), w < 2 ^ 36 →
    portInstr (s.withFetchWord 40 w).input = decodeTableWord 40 w ∧
    (s.withFetchWord 40 w).input.rst = false ∧
    s.withFetchWord 40 w = { s with program := (s.withFetchWord 40 w).input :: s.program.tail }) ∧
  (∀ (s : State) (w : Nat), w = 1 ∨ w = 2 →
    decodeTableWord 8 w = some (jobInstr (s.withFetchWord 8 w).block) ∧
    portInstr (s.withFetchWord 8 w).input = none ∧
    fires (s.withFetchWord 8 w).block (s.withFetchWord 8 w).input = true ∧
    (s.withFetchWord 8 w).mem = s.mem)

/-- 00_scope.md R9 and 92 D31: for every CODEC_BASE the port's eight registers stand at eight consecutive words, in index
order, and no other word reaches one. That addresses count register words is the model's choice (log entry 10). -/
def Obligations.PortWindowHoldsEightRegisters : Prop :=
  ∀ (codecBase a : Nat) (r : Reg), portReg codecBase a = some r ↔ a = codecBase + r.index.toNat

/-! ## The sample operations -/

/-- 40_sample_ops.md R75 and R78: a 10-bit subtractor or adder followed by an inversion of bit 9. -/
def Obligations.DatapathIsXorOfBitNine : Prop :=
  ∀ x y : Slot,
    diff10 x y = ((x.extractLsb' 0 10 - y.extractLsb' 0 10) ^^^ 0x200#10) ∧
    diff10 x y = ((x.extractLsb' 0 10 + ~~~ y.extractLsb' 0 10 + 1#10) ^^^ 0x200#10) ∧
    recon10 x y = ((x.extractLsb' 0 10 + y.extractLsb' 0 10) ^^^ 0x200#10)

/-- 40_sample_ops.md R82: the round trip, upper bits included. -/
def Obligations.ReconOfDiffIsMinuend : Prop :=
  ∀ a b : Slot,
    (recon10 b (resultSlot (diff10 a b))).toNat = a.toNat % 1024 ∧
    (a.toNat ≤ 1023 → b.toNat ≤ 1023 → resultSlot (recon10 b (resultSlot (diff10 a b))) = a)

/-- 40_sample_ops.md R83: the reverse round trip; for each fixed b the two maps are mutually inverse bijections. -/
def Obligations.DiffOfReconIsDifference : Prop :=
  (∀ b d : Slot, d.toNat ≤ 1023 → resultSlot (diff10 (resultSlot (recon10 b d)) b) = d) ∧
  ∀ b : Slot,
    Function.LeftInverse (fun x : Sample => recon10 b (resultSlot x)) (fun x : Sample => diff10 (resultSlot x) b) ∧
    Function.RightInverse (fun x : Sample => recon10 b (resultSlot x)) (fun x : Sample => diff10 (resultSlot x) b)

/-- 40_sample_ops.md R84: the bias maps [-512, 511] bijectively onto [0, 1023]; a stored code less 512 is the signed
difference in that range, and congruent to it modulo 1024 outside, where the round trip still holds. -/
def Obligations.BiasCentresDifferences : Prop :=
  Set.BijOn (fun x : Int => (x + 512) % 1024) (Set.Icc (-512) 511) (Set.Icc 0 1023) ∧
  ((0 : Int) + 512) % 1024 = 512 ∧ ((-512 : Int) + 512) % 1024 = 0 ∧ ((511 : Int) + 512) % 1024 = 1023 ∧
  ∀ a b : Slot,
    let d : Int := (a.toNat % 1024 : Nat) - (b.toNat % 1024 : Nat)
    (-512 ≤ d → d ≤ 511 → ((diff10 a b).toNat : Int) - 512 = d) ∧
    ((diff10 a b).toNat : Int) - 512 ≡ d [ZMOD 1024] ∧
    (recon10 b (resultSlot (diff10 a b))).toNat = a.toNat % 1024

/-- 40_sample_ops.md R73 and R76, corner cases: when DIFF commutes, and that RECON always does. -/
def Obligations.DiffAndReconCommutation : Prop :=
  ∀ x y : Slot,
    ((diff10 x y).toNat + (diff10 y x).toNat) % 1024 = 0 ∧
    (diff10 x y = diff10 y x ↔
      ((x.toNat % 1024 : Nat) - (y.toNat % 1024 : Nat) : Int) ≡ 0 [ZMOD 1024] ∨
      ((x.toNat % 1024 : Nat) - (y.toNat % 1024 : Nat) : Int) ≡ 512 [ZMOD 1024]) ∧
    recon10 x y = recon10 y x

/-- 40_sample_ops.md R81: bits [15:10] have no effect. -/
def Obligations.UpperSlotBitsAreIgnored : Prop :=
  ∀ a a' b b' : Slot, a.extractLsb' 0 10 = a'.extractLsb' 0 10 → b.extractLsb' 0 10 = b'.extractLsb' 0 10 →
    diff10 a b = diff10 a' b' ∧ recon10 a b = recon10 a' b'

/-! ## Frame length and layout -/

/-- 41_stream_transform.md R88: the range of count. -/
def Obligations.FrameCountRange : Prop :=
  (∀ w h : Dim, frameCount w h = 0 ↔ w = 0#16 ∨ h = 0#16) ∧
  (∀ w h : Dim, frameCount w h ≤ 6442254337 ∧ frameCount w h < 2 ^ 33) ∧
  frameCount 65535#16 65535#16 = 6442254337 ∧
  frameCount 3840#16 2160#16 = 12441600

/-- 41_stream_transform.md R89: the relation to the source's 3/2 figure. -/
def Obligations.FrameCountAgainstThreeHalves : Prop :=
  ∀ w h : Dim,
    let p := w.toNat * h.toNat
    (p % 4 = 0 ∨ p % 4 = 1 → frameCount w h = 3 * p / 2) ∧
    (p % 4 = 2 ∨ p % 4 = 3 → frameCount w h + 1 = 3 * p / 2)

/-- 20_memory.md R44: the three planes follow one another, fill the frame's count(W, H) samples and do not overlap. -/
def Obligations.PlanesTileTheFrame : Prop :=
  ∀ (w h : Dim) (i : Nat),
    planeSize w h .luma + planeSize w h .chroma1 + planeSize w h .chroma2 = frameCount w h ∧
    (∀ p, planeOf w h i = some p ↔ planeStart w h p ≤ i ∧ i < planeStart w h p + planeSize w h p) ∧
    (planeOf w h i = none ↔ frameCount w h ≤ i)

/-! ## Host memory -/

/-- 20_memory.md R43: MemRead takes its bytes least significant first, and sample i lies at offsets 2i and 2i+1 in that
order. -/
def Obligations.SampleBytesAreLittleEndian : Prop :=
  (∀ (m : Memory) (a n : Nat) (b : Byte) (v : Nat), Memory.read m a = some b → memRead m (a + 1) n = some v →
    memRead m a (n + 1) = some (b.toNat + 256 * v)) ∧
  (∀ (m : Memory) (i : Nat) (lo hi : Byte), Memory.read m (2 * i) = some lo → Memory.read m (2 * i + 1) = some hi →
    memRead m (2 * i) 2 = some (lo.toNat + 256 * hi.toNat) ∧
    ∃ v : Slot, readSample m i = some v ∧ v.toNat = lo.toNat + 256 * hi.toNat) ∧
  (∀ (m : Memory) (i : Nat) (v : Slot),
    Memory.read (writeSample m i v) (2 * i) = some (v.extractLsb' 0 8) ∧
    Memory.read (writeSample m i v) (2 * i + 1) = some (v.extractLsb' 8 8) ∧
    ∀ a, a ≠ 2 * i → a ≠ 2 * i + 1 → Memory.read (writeSample m i v) a = Memory.read m a)

/-- 00_scope.md R12 and 20_memory.md R43: MemRead after MemWrite, for any width, and MemWrite's frame. -/
def Obligations.MemReadAfterMemWrite : Prop :=
  ∀ (m : Memory) (a n v : Nat),
    memRead (memWrite m a n v) a n = some (v % 256 ^ n) ∧
    ∀ x, (x < a ∨ a + n ≤ x) → Memory.read (memWrite m a n v) x = Memory.read m x

/-! ## The register commands -/

/-- 42_register_access.md R107: REG_READ completes in every state and puts each bit of the register on reg_rdata; no
state element changes. -/
def Obligations.RegReadReturnsTheRegister : Prop :=
  ∀ (reg : Reg) (ignored : Word) (s : State), ∃ v : Word,
    exec (.regRead reg ignored) s = .next { s with ports := { s.ports with regRdata := v } } ∧
    ∀ bit, v.getLsbD bit = SpecBlock.regReadBit s.block reg.index.toNat bit

/-- 42_register_access.md R110: reg_write while BUSY = 0, register by register; the read-only ones change nothing. -/
def Obligations.RegWriteWhileIdle : Prop :=
  ∀ (data : Word) (s : State), s.block.busy = false →
    (data.getLsbD 2 = true → exec (.regWrite .ctrl data) s = exec (.start data) s) ∧
    (data.getLsbD 2 = false → exec (.regWrite .ctrl data) s =
      .next { s with block := { s.block with genBit := data.getLsbD 0, recBit := data.getLsbD 1 } }) ∧
    exec (.regWrite .width data) s = .next { s with block := { s.block with width := data.setWidth 16 } } ∧
    exec (.regWrite .height data) s = .next { s with block := { s.block with height := data.setWidth 16 } } ∧
    ∀ reg, reg = .status ∨ reg = .countLo ∨ reg = .countHi ∨ reg = .remainLo ∨ reg = .remainHi →
      exec (.regWrite reg data) s = .next s

/-- 42_register_access.md R112: an accepted START. -/
def Obligations.StartAccepted : Prop :=
  ∀ (data : Word) (s : State), s.block.busy = false → data.getLsbD 0 ≠ data.getLsbD 1 →
    ∃ t, exec (.start data) s = .next t ∧
      t.block.count.toNat = frameCount s.block.width s.block.height ∧
      t.block.remain.toNat = frameCount s.block.width s.block.height ∧
      t.block = { s.block with
        genBit := data.getLsbD 0
        recBit := data.getLsbD 1
        count := t.block.count
        remain := t.block.remain
        errMode := false
        busy := decide (frameCount s.block.width s.block.height ≠ 0)
        done := decide (frameCount s.block.width s.block.height = 0) } ∧
      t.ports = s.ports ∧ t.program = s.program ∧ t.mem = s.mem

/-- 42_register_access.md R113 and 60_exceptions.md R118: a rejected START raises ModeError and changes nothing else. No
job runs afterwards, so no input is taken whatever the host drives, and with OUT_FULL = 0 (R33) no result is handed over. -/
def Obligations.StartRejectedRaisesModeError : Prop :=
  ∀ (data : Word) (s : State), s.block.busy = false → data.getLsbD 0 = data.getLsbD 1 →
    ∃ t, exec (.start data) s = .next t ∧
      t = { s with block := { s.block with
        genBit := data.getLsbD 0
        recBit := data.getLsbD 1
        errMode := true
        done := false } } ∧
      ∀ c : CycleIn, fires t.block c = false ∧ (s.block.outFull = false → drains t.block c = false)

/-- 42_register_access.md R109 and R114: while BUSY = 1 every REG_WRITE and START is ignored in full. -/
def Obligations.WritesIgnoredWhileBusy : Prop :=
  ∀ (reg : Reg) (data : Word) (s : State), s.block.busy = true →
    exec (.regWrite reg data) s = .next s ∧ exec (.start data) s = .next s

/-- The stream sequences restart at an accepted START and at no other command (20_memory.md R41; the record and its
restart are the model's choice, log entry 5). -/
def Obligations.StreamSequencesRestartAtStart : Prop :=
  ∀ (i : Instr) (s t : State), exec i s = .next t → (i ≠ .diff ∧ i ≠ .recon) →
    (s.block.busy = false ∧ (∃ data, (i = .start data ∨ i = .regWrite .ctrl data ∧ data.getLsbD 2 = true) ∧
        data.getLsbD 0 ≠ data.getLsbD 1) →
      t.bSeq = [] ∧ t.sSeq = [] ∧ t.rSeq = []) ∧
    (¬ (s.block.busy = false ∧ (∃ data, (i = .start data ∨ i = .regWrite .ctrl data ∧ data.getLsbD 2 = true) ∧
        data.getLsbD 0 ≠ data.getLsbD 1)) →
      t.bSeq = s.bSeq ∧ t.sSeq = s.sSeq ∧ t.rSeq = s.rSeq)

/-- What the register commands leave unchanged: REG_READ all of the block, REG_WRITE all but CTRL, WIDTH and HEIGHT,
START all but CTRL, STATUS, COUNT and REMAIN; none touches memory, the inputs or the stream ports
(10_state.md R30, 42_register_access.md). -/
def Obligations.RegisterCommandFrame : Prop :=
  (∀ (reg : Reg) (d : Word) (s t : State), exec (.regRead reg d) s = .next t →
    t.block = s.block ∧ (∀ a, Memory.read t.mem a = Memory.read s.mem a) ∧ t.program = s.program ∧
    t.ports = { s.ports with regRdata := t.ports.regRdata }) ∧
  (∀ (reg : Reg) (d : Word) (s t : State), (Instr.regWrite reg d).wf = true → exec (.regWrite reg d) s = .next t →
    t.block = { s.block with
      genBit := t.block.genBit, recBit := t.block.recBit, width := t.block.width, height := t.block.height } ∧
    (reg ≠ .ctrl → t.block.genBit = s.block.genBit ∧ t.block.recBit = s.block.recBit) ∧
    (reg ≠ .width → t.block.width = s.block.width) ∧ (reg ≠ .height → t.block.height = s.block.height) ∧
    (∀ a, Memory.read t.mem a = Memory.read s.mem a) ∧ t.program = s.program ∧ t.ports = s.ports) ∧
  (∀ (d : Word) (s t : State), exec (.start d) s = .next t →
    t.block.width = s.block.width ∧ t.block.height = s.block.height ∧
    t.block.outReg = s.block.outReg ∧ t.block.outFull = s.block.outFull ∧
    (d.getLsbD 0 = d.getLsbD 1 → t.block.count = s.block.count ∧ t.block.remain = s.block.remain ∧
      t.block.busy = s.block.busy) ∧
    (∀ a, Memory.read t.mem a = Memory.read s.mem a) ∧ t.program = s.program ∧ t.ports = s.ports)

/-! ## The sample operations as a job applies them -/

/-- DIFF completes whenever the cycle fires (41_stream_transform.md R93): OUT_REG takes R73's value of the two slots,
OUT_FULL is set, REMAIN falls by 1 (R94), both inputs are accepted, and nothing else changes. -/
def Obligations.DiffFires : Prop :=
  ∀ s : State, s.input.rst = false → s.block.busy = true → s.block.remain ≠ 0#33 →
    s.input.bValid = true → s.input.sValid = true → (s.block.outFull = false ∨ s.input.rReady = true) →
    ∃ t, exec .diff s = .next t ∧
      (t.block.outReg.toNat : Int) =
        ((s.input.sData.toNat % 1024 : Nat) - (s.input.bData.toNat % 1024 : Nat) + 512 : Int) % 1024 ∧
      t.block.remain.toNat + 1 = s.block.remain.toNat ∧
      t.block = { s.block with outReg := t.block.outReg, outFull := true, remain := t.block.remain } ∧
      t.ports = { s.ports with bReady := true, sReady := true } ∧
      t.bSeq = s.bSeq ++ [s.input.bData] ∧ t.sSeq = s.sSeq ++ [s.input.sData] ∧
      t.rSeq = s.rSeq ∧ t.mem = s.mem ∧ t.program = s.program

/-- RECON completes whenever the cycle fires (41_stream_transform.md R93), with R76's value of the two slots. -/
def Obligations.ReconFires : Prop :=
  ∀ s : State, s.input.rst = false → s.block.busy = true → s.block.remain ≠ 0#33 →
    s.input.bValid = true → s.input.sValid = true → (s.block.outFull = false ∨ s.input.rReady = true) →
    ∃ t, exec .recon s = .next t ∧
      (t.block.outReg.toNat : Int) =
        ((s.input.bData.toNat % 1024 : Nat) + (s.input.sData.toNat % 1024 : Nat) - 512 : Int) % 1024 ∧
      t.block.remain.toNat + 1 = s.block.remain.toNat ∧
      t.block = { s.block with outReg := t.block.outReg, outFull := true, remain := t.block.remain } ∧
      t.ports = { s.ports with bReady := true, sReady := true } ∧
      t.bSeq = s.bSeq ++ [s.input.bData] ∧ t.sSeq = s.sSeq ++ [s.input.sData] ∧
      t.rSeq = s.rSeq ∧ t.mem = s.mem ∧ t.program = s.program

/-- In a cycle that does not fire, DIFF and RECON wait: no input is consumed and nothing changes
(41_stream_transform.md R93, lockstep: one valid without the other is not enough). -/
def Obligations.SampleOpsWaitWithoutFire : Prop :=
  ∀ s : State, (s.input.rst = true ∨ s.block.busy = false ∨ s.block.remain = 0#33 ∨ s.input.bValid = false ∨
      s.input.sValid = false ∨ (s.block.outFull = true ∧ s.input.rReady = false)) →
    exec .diff s = .next s ∧ exec .recon s = .next s

/-- What DIFF and RECON leave unchanged whether they fire or wait (41_stream_transform.md R93, R94). -/
def Obligations.SampleOpFrame : Prop :=
  ∀ (i : Instr) (s t : State), i = .diff ∨ i = .recon → exec i s = .next t →
    t.block = { s.block with outReg := t.block.outReg, outFull := t.block.outFull, remain := t.block.remain } ∧
    (∀ a, Memory.read t.mem a = Memory.read s.mem a) ∧
    t.rSeq = s.rSeq ∧ t.program = s.program ∧
    t.ports = { s.ports with bReady := t.ports.bReady, sReady := t.ports.sReady }

/-- 40_sample_ops.md R85 and R86: the result of a fire depends on the job's operation and the two slots accepted, and on
nothing else of either state. -/
def Obligations.FireResultDependsOnSlotsOnly : Prop :=
  ∀ s₁ s₂ t₁ t₂ : State, step s₁ = .next t₁ → step s₂ = .next t₂ →
    fires s₁.block s₁.input = true → fires s₂.block s₂.input = true →
    s₁.block.mode = s₂.block.mode →
    s₁.input.bData.extractLsb' 0 10 = s₂.input.bData.extractLsb' 0 10 →
    s₁.input.sData.extractLsb' 0 10 = s₂.input.sData.extractLsb' 0 10 →
    t₁.block.outReg = t₂.block.outReg

/-- A cycle's effect on the block and its outputs does not depend on bits [15:10] of the offered slots
(10_state.md R38, 40_sample_ops.md R81). -/
def Obligations.StepIgnoresUpperSlotBits : Prop :=
  ∀ (s t t' : State) (b' d' : Slot),
    b'.extractLsb' 0 10 = s.input.bData.extractLsb' 0 10 → d'.extractLsb' 0 10 = s.input.sData.extractLsb' 0 10 →
    step (s.withInput s.input) = .next t →
    step (s.withInput { s.input with bData := b', sData := d' }) = .next t' →
    t'.block = t.block ∧ t'.ports = t.ports ∧ t'.rSeq = t.rSeq ∧ t'.mem = t.mem

/-! ## Reset -/

/-- 10_state.md R35: the reset values. -/
def Obligations.ResetValues : Prop :=
  State.reset.block =
    { genBit := false, recBit := false, busy := false, done := false, errMode := false, width := 3840#16,
      height := 2160#16, count := 0#33, remain := 0#33, outReg := 0#10, outFull := false }

/-- 70_reset_and_hazards.md R129: in any cycle with rst = 1, from any state, the block takes its reset values, every
output is 0, nothing is transferred and a register access is ignored. -/
def Obligations.ResetCycleFromAnyState : Prop :=
  ∀ s : State, s.input.rst = true → ∃ t, step s = .next t ∧
    t.block =
      { genBit := false, recBit := false, busy := false, done := false, errMode := false, width := 3840#16,
        height := 2160#16, count := 0#33, remain := 0#33, outReg := 0#10, outFull := false } ∧
    t.ports = { bReady := false, sReady := false, rValid := false, rData := 0#16, regRdata := 0#32 } ∧
    t.mem = s.mem ∧ t.program = s.program.tail

/-! ## The cycle -/

/-- A step runs the decoded instruction: the register command that the cycle's transaction word decodes to runs first,
then, if a job runs, the operation its MODE decodes to; around them the model sets the outputs and drains before, and
completes and moves to the next input after (41_stream_transform.md R101; log entry 8). -/
def Obligations.StepRunsDecodedInstructions : Prop :=
  ∀ s : State, s.input.rst = false →
    (∀ i t, s.input.regEn = true → decode (.regport s.input.transaction) = .ok i →
      exec i s.beginCycle.drain = .next t → s.block.busy = false → step s = .next t.advance) ∧
    (∀ i t j u, s.input.regEn = true → decode (.regport s.input.transaction) = .ok i →
      exec i s.beginCycle.drain = .next t → s.block.busy = true → decode (.mode s.block.mode) = .ok j →
      exec j t = .next u → step s = .next (u.complete true).advance) ∧
    (∀ j u, s.input.regEn = false → s.block.busy = true → decode (.mode s.block.mode) = .ok j →
      exec j s.beginCycle.drain = .next u → step s = .next (u.complete true).advance) ∧
    (s.input.regEn = false → s.block.busy = false → step s = .next s.beginCycle.drain.advance)

/-- 41_stream_transform.md R101: from every state every cycle completes, and the block's next state is the one the spec's
own next-state function gives, all reads being of pre-edge values. -/
def Obligations.StepIsTheNextStateFunction : Prop :=
  ∀ s : State, ∃ t, step s = .next t ∧ t.block = SpecBlock.step s.block s.input ∧ t.program = s.program.tail

/-- 41_stream_transform.md R102: the outputs of every cycle are those of the spec's output function. -/
def Obligations.PortsFollowTheOutputFunction : Prop :=
  ∀ s t : State, step s = .next t → SpecOutputs s.block s.input t.ports

/-- 10_state.md R33: if BUSY = 0 then REMAIN = 0 and OUT_FULL = 0. It holds after reset, and every step keeps it; under it
no cycle fires or drains while BUSY = 0. -/
def Obligations.IdleMeansNothingLeft : Prop :=
  (State.reset.block.busy = false ∧ State.reset.block.remain = 0#33 ∧ State.reset.block.outFull = false) ∧
  ∀ s t : State, (s.block.busy = false → s.block.remain = 0#33 ∧ s.block.outFull = false) → step s = .next t →
    (t.block.busy = false → t.block.remain = 0#33 ∧ t.block.outFull = false) ∧
    (s.block.busy = false → fires s.block s.input = false ∧ drains s.block s.input = false)

/-- The invariant of a run holds after reset. -/
def Obligations.JobInvHoldsAtReset : Prop := JobInv State.reset

/-- The invariant of a run is kept by every step from every state that has it: 10_state.md R33, 41_stream_transform.md
R91, R92 and R98, 20_memory.md R43 and R52. -/
def Obligations.StepKeepsJobInv : Prop :=
  ∀ s t : State, JobInv s → step s = .next t → JobInv t

/-- 41_stream_transform.md R95 and R96: a drain hands zext_16(OUT_REG) to the host as the next slot of stream R; a fire
in the same cycle keeps OUT_FULL at 1; without r_ready the result stays offered, unchanged. The premise is R33's. That the
transfer is seen as a growing record is the model's choice (log entry 5). -/
def Obligations.DrainHandsOverTheResult : Prop :=
  ∀ s t : State, (s.block.busy = false → s.block.remain = 0#33 ∧ s.block.outFull = false) →
    s.input.rst = false → s.block.outFull = true → step s = .next t →
    t.ports.rValid = true ∧ t.ports.rData.toNat = s.block.outReg.toNat ∧
    (s.input.rReady = true →
      t.rSeq = s.rSeq ++ [t.ports.rData] ∧ (t.block.outFull = true ↔ fires s.block s.input = true)) ∧
    (s.input.rReady = false →
      t.block.outFull = true ∧ t.block.outReg = s.block.outReg ∧ t.rSeq = s.rSeq ∧ t.block.remain = s.block.remain)

/-- The only bytes a step changes are the two of the sample that its drain stores, at the next index of the output file
(20_memory.md R42, R43; that the file is held here and when it is written are the model's choice, log entry 6). -/
def Obligations.OnlyADrainStores : Prop :=
  ∀ s t : State, step s = .next t →
    (drains s.block s.input = true →
      (∃ v, readSample t.mem s.rSeq.length = some v ∧ v.toNat = s.block.outReg.toNat) ∧
      ∀ a, a ≠ sampleAddr s.rSeq.length → a ≠ sampleAddr s.rSeq.length + 1 →
        Memory.read t.mem a = Memory.read s.mem a) ∧
    (drains s.block s.input = false → ∀ a, Memory.read t.mem a = Memory.read s.mem a)

/-- 41_stream_transform.md R97, R98, R104: a job ends in the cycle that hands over its COUNT-th result, and then exactly
COUNT pairs were accepted and COUNT results transferred, each the job's operation on its pair, in order. -/
def Obligations.CompletionDeliversTheWholeFrame : Prop :=
  ∀ s t : State, JobInv s → s.input.rst = false → s.block.busy = true → step s = .next t →
    (t.block.busy = false ↔ t.rSeq.length = frameCount s.block.width s.block.height) ∧
    (t.block.busy = false →
      t.block.done = true ∧ s.block.remain = 0#33 ∧ s.block.outFull = true ∧ s.input.rReady = true ∧
      t.bSeq.length = frameCount s.block.width s.block.height ∧
      t.sSeq.length = frameCount s.block.width s.block.height ∧
      t.rSeq = List.zipWith (pairResult s.block.mode) t.bSeq t.sSeq)

/-- 42_register_access.md R109, at the level of a cycle: while BUSY = 1 before the edge, a cycle with a write or a START
is the same cycle without it, in every element and every output; 70_reset_and_hazards.md R135 is the completion cycle. -/
def Obligations.BusyCycleIgnoresWrites : Prop :=
  ∀ s : State, s.block.busy = true → s.input.writes = true →
    step s = step (s.withInput s.input.noAccess)

/-- 20_memory.md R56 and 41_stream_transform.md R91: no cycle of a running job but a reset changes its configuration. -/
def Obligations.RunningJobIsFrozen : Prop :=
  ∀ s t : State, s.block.busy = true → s.input.rst = false → step s = .next t →
    t.block.genBit = s.block.genBit ∧ t.block.recBit = s.block.recBit ∧ t.block.width = s.block.width ∧
    t.block.height = s.block.height ∧ t.block.count = s.block.count ∧ t.block.errMode = s.block.errMode

/-- 10_state.md R25 and 60_exceptions.md R127: the only events that set and clear BUSY, DONE and ERR_MODE. -/
def Obligations.StatusBitsChangeOnlyAtTheirEvents : Prop :=
  ∀ s t : State, JobInv s → step s = .next t →
    let started := s.input.rst = false ∧ s.block.busy = false ∧ ∃ d, portInstr s.input = some (.start d)
    let completed := s.input.rst = false ∧ s.block.busy = true ∧ t.block.remain = 0#33 ∧ t.block.outFull = false
    let empty := frameCount s.block.width s.block.height = 0
    (s.block.busy = false → (t.block.busy = true ↔ acceptsStart s ∧ ¬ empty)) ∧
    (s.block.busy = true → (t.block.busy = false ↔ completed ∨ s.input.rst = true)) ∧
    (s.block.done = false → (t.block.done = true ↔ completed ∨ (acceptsStart s ∧ empty))) ∧
    (s.block.done = true → (t.block.done = false ↔ s.input.rst = true ∨ (started ∧ ¬ (acceptsStart s ∧ empty)))) ∧
    (s.block.errMode = false → (t.block.errMode = true ↔ started ∧ ¬ acceptsStart s)) ∧
    (s.block.errMode = true → (t.block.errMode = false ↔ s.input.rst = true ∨ acceptsStart s))

/-- 10_state.md R28 and R29: the only writers of COUNT and REMAIN are reset, an accepted START, and for REMAIN a fire,
which subtracts 1 without wrapping. -/
def Obligations.CountAndRemainWriters : Prop :=
  ∀ s t : State, step s = .next t → s.input.rst = false →
    (acceptsStart s → t.block.count.toNat = frameCount s.block.width s.block.height ∧ t.block.remain = t.block.count) ∧
    (¬ acceptsStart s → t.block.count = s.block.count) ∧
    (fires s.block s.input = true → t.block.remain.toNat + 1 = s.block.remain.toNat) ∧
    (¬ acceptsStart s → fires s.block s.input = false → t.block.remain = s.block.remain)

/-- 41_stream_transform.md R100: once REMAIN = 0 the block takes no further input for the rest of the job or while
idle, so a surplus slot stays with the host. -/
def Obligations.SurplusInputIsNotTaken : Prop :=
  ∀ s t : State, JobInv s → s.block.busy = false ∨ s.block.remain = 0#33 → step s = .next t →
    t.ports.bReady = false ∧ t.ports.sReady = false ∧ t.bSeq.length ≤ s.bSeq.length ∧ t.sSeq.length ≤ s.sSeq.length

/-- 42_register_access.md R115 and 20_memory.md R51: what a write stores in one cycle, a read in the next returns. -/
def Obligations.ReadInTheNextCycleSeesTheWrite : Prop :=
  ∀ (s t u : State) (imm : Word) (c c' : CycleIn) (rest : List CycleIn),
    s.block.busy = false → s.program = c :: c' :: rest → c.rst = false → c'.rst = false →
    step s = .next t → step t = .next u →
    (∀ r, r = .width ∨ r = .height → portInstr c = some (.regWrite r imm) →
      (∃ d, portInstr c' = some (.regRead r d)) → u.ports.regRdata.toNat = imm.toNat % 2 ^ 16) ∧
    (portInstr c = some (.regWrite .ctrl imm) → (∃ d, portInstr c' = some (.regRead .ctrl d)) →
      u.ports.regRdata.toNat = imm.toNat % 4) ∧
    (portInstr c = some (.start imm) → (∃ d, portInstr c' = some (.regRead .ctrl d)) →
      u.ports.regRdata.toNat = imm.toNat % 4) ∧
    (portInstr c = some (.start imm) → (∃ d, portInstr c' = some (.regRead .status d)) →
      u.ports.regRdata =
        if imm.getLsbD 0 = imm.getLsbD 1 then 4#32
        else if frameCount s.block.width s.block.height = 0 then 2#32 else 1#32)

/-! ## Runs -/

/-- 41_stream_transform.md R99: if the host offers fewer than REMAIN further slots on B, or on S, then without a reset
the job never ends: BUSY stays 1, REMAIN stays above 0 and no error is recorded. -/
def Obligations.ShortInputWaitsForEver : Prop :=
  ∀ s : State, JobInv s → s.block.busy = true → (∀ c ∈ s.program, c.rst = false) →
    (s.program.countP CycleIn.bValid < s.block.remain.toNat ∨ s.program.countP CycleIn.sValid < s.block.remain.toNat) →
    ∀ k, ∃ t, reaches k s t ∧ t.block.busy = true ∧ t.block.remain ≠ 0#33 ∧ t.block.errMode = false ∧
      t.block.done = false

/-- 70_reset_and_hazards.md R139: a cycle in which the host offers both inputs and can take the output moves a running
job forward by one fire, or by one drain once REMAIN = 0. -/
def Obligations.ServedCycleMakesProgress : Prop :=
  ∀ s t : State, JobInv s → s.block.busy = true → s.input.offersAndTakes = true → step s = .next t →
    (s.block.remain ≠ 0#33 →
      t.block.remain.toNat + 1 = s.block.remain.toNat ∧ t.bSeq = s.bSeq ++ [s.input.bData] ∧
      t.sSeq = s.sSeq ++ [s.input.sData]) ∧
    (s.block.remain = 0#33 → t.rSeq.length = s.rSeq.length + 1 ∧ t.block.busy = false ∧ t.block.done = true)

/-- 70_reset_and_hazards.md R138 and R139: a running job completes once the host has served it in REMAIN + 1 cycles,
whatever else the host does in between, short of a reset. Past the placed inputs the host is idle, the model's choice
(log entry 1). -/
def Obligations.ServedJobCompletes : Prop :=
  ∀ (s : State) (k : Nat), JobInv s → s.block.busy = true → (∀ c ∈ s.nextInputs k, c.rst = false) →
    s.block.workLeft ≤ (s.nextInputs k).countP CycleIn.offersAndTakes →
    ∃ j t, j ≤ k ∧ reaches j s t ∧ t.block.busy = false ∧ t.block.done = true

/-- 41_stream_transform.md R104: with the host always offering inputs and always ready, a job of N pairs started in cycle
0 fires in cycles 1 to N, drains in cycles 2 to N+1, and DONE reads 1 from cycle N+2, with N results, each the job's
operation on its pair. -/
def Obligations.UnstalledJobTakesNPlusTwoCycles : Prop :=
  ∀ (s : State) (data : Word) (c₀ d : CycleIn) (cs rest : List CycleIn),
    JobInv s → s.block.busy = false → s.program = c₀ :: cs ++ d :: rest →
    c₀.rst = false → portInstr c₀ = some (.start data) → data.getLsbD 0 ≠ data.getLsbD 1 →
    1 ≤ cs.length → cs.length = frameCount s.block.width s.block.height →
    (∀ c ∈ cs, c.offersAndTakes = true) → d.rst = false → d.rReady = true →
    (∀ k, k ≤ cs.length → ∃ t, reaches (k + 1) s t ∧ t.block.busy = true ∧ t.block.done = false ∧
      t.block.remain.toNat = cs.length - k ∧ t.rSeq.length = k - 1) ∧
    ∃ t, reaches (cs.length + 2) s t ∧ t.block.busy = false ∧ t.block.done = true ∧
      t.rSeq = cs.map (fun c => pairResult (dataMode data) c.bData c.sData) ∧ t.program = rest

/-- 70_reset_and_hazards.md R136: REMAIN_HI, REMAIN_LO, REMAIN_HI read in that order during one job give REMAIN as it was
at the LO read whenever the two HI reads agree. -/
def Obligations.TornReadOfRemainIsDetected : Prop :=
  ∀ (s₁ s₂ s₃ : State) (j k : Nat),
    (∀ i, i < j + k → ∀ u, reaches i s₁ u → u.block.busy = true ∧ u.input.rst = false) →
    reaches j s₁ s₂ → reaches k s₂ s₃ →
    regRead s₁.block .remainHi = regRead s₃.block .remainHi →
    s₂.block.remain.toNat = (regRead s₁.block .remainHi).toNat * 2 ^ 32 + (regRead s₂.block .remainLo).toNat

/-- 20_memory.md R42 to R44, 41_stream_transform.md R98 and R104, 70_reset_and_hazards.md R134: a host that starts a job
and offers the two frames from its files gets the result frame in its output file, sample by sample. That the output file
is held here and written at each drain, and how a file is offered, are the model's choice (log entries 6 and 14). -/
def Obligations.FrameGoesThroughEndToEnd : Prop :=
  ∀ (s : State) (data : Word) (c₀ : CycleIn) (fileB fileS : Memory) (rest : List CycleIn),
    JobInv s → s.block.busy = false → frameCount s.block.width s.block.height ≠ 0 →
    s.program = c₀ :: offerFrame fileB fileS (frameCount s.block.width s.block.height) ++ rest →
    c₀.rst = false → portInstr c₀ = some (.start data) → data.getLsbD 0 ≠ data.getLsbD 1 →
    holdsFrame fileB (frameCount s.block.width s.block.height) →
    holdsFrame fileS (frameCount s.block.width s.block.height) →
    ∃ t, reaches (frameCount s.block.width s.block.height + 2) s t ∧ t.block.done = true ∧ t.program = rest ∧
      ∀ i b v, i < frameCount s.block.width s.block.height → readSample fileB i = some b → readSample fileS i = some v →
        readSample t.mem i = some (pairResult (dataMode data) b v)

/-- 40_sample_ops.md R82 on a whole frame (95_test_vectors.md E4): a DIFF job on frames A and B, and then a RECON job on B
and the file the first job wrote, give back the low 10 bits of every sample of A. That the output file is held here and
written at each drain, and how a file is offered, are the model's choice (log entries 6 and 14). -/
def Obligations.WholeFrameRoundTrip : Prop :=
  ∀ (s : State) (fileA fileB : Memory),
    JobInv s → s.block.busy = false → frameCount s.block.width s.block.height ≠ 0 →
    s.program = CycleIn.startGen :: offerFrame fileB fileA (frameCount s.block.width s.block.height) →
    holdsFrame fileA (frameCount s.block.width s.block.height) →
    holdsFrame fileB (frameCount s.block.width s.block.height) →
    ∃ t u, reaches (frameCount s.block.width s.block.height + 2) s t ∧
      reaches (frameCount s.block.width s.block.height + 2)
        { t with program := CycleIn.startRec :: offerFrame fileB t.mem (frameCount s.block.width s.block.height) } u ∧
      u.block.done = true ∧ u.block.errMode = false ∧
      ∀ i a, i < frameCount s.block.width s.block.height → readSample fileA i = some a →
        ∃ r, readSample u.mem i = some r ∧ r.toNat = a.toNat % 1024
end

