-- ==== Sys2Proof/Laws/Codec.lean ====
section
/-! SUPPORT. The arithmetic down to integers, the frame length's bound, and each arm of exec as one equation. -/

namespace Sys2Proof.Machine

theorem sampleValue_eq (x : Slot) : sampleValue x = x.toNat % 1024 := by
  simp [sampleValue]

theorem sampleValue_lt (x : Slot) : sampleValue x < 1024 := by
  rw [sampleValue_eq]; omega

theorem resultSlot_toNat (r : Sample) : (resultSlot r).toNat = r.toNat := by
  have := r.isLt
  simp only [resultSlot, BitVec.toNat_setWidth]
  omega

theorem sampleValue_resultSlot (r : Sample) : sampleValue (resultSlot r) = r.toNat := by
  have := r.isLt
  rw [sampleValue_eq, resultSlot_toNat]
  omega

theorem maskSample_toInt (v : Int) : ((maskSample v).toNat : Int) = v % 1024 := by
  have h : Config.mask + 1 = 1024 := rfl
  have h₀ := Int.emod_nonneg v (show (1024 : Int) ≠ 0 by decide)
  have h₁ := Int.emod_lt_of_pos v (show (0 : Int) < 1024 by decide)
  simp only [maskSample, h, BitVec.toNat_ofNat]
  omega

/-- R73's formula on integers. -/
theorem diff10_toInt (a b : Slot) :
    ((diff10 a b).toNat : Int) = ((a.toNat % 1024 : Nat) - (b.toNat % 1024 : Nat) + 512 : Int) % 1024 := by
  rw [diff10, maskSample_toInt, sampleValue_eq, sampleValue_eq]
  rfl

/-- R76's formula on integers. -/
theorem recon10_toInt (b d : Slot) :
    ((recon10 b d).toNat : Int) = ((b.toNat % 1024 : Nat) + (d.toNat % 1024 : Nat) - 512 : Int) % 1024 := by
  rw [recon10, maskSample_toInt, sampleValue_eq, sampleValue_eq]
  rfl

theorem frameCount_lt (w h : Dim) : frameCount w h < 2 ^ 33 := by
  have hw := w.isLt
  have hh := h.isLt
  have : w.toNat * h.toNat ≤ 65535 * 65535 := Nat.mul_le_mul (by omega) (by omega)
  simp only [frameCount]
  omega

/-- COUNT latches the exact frame length: 33 bits are enough. -/
theorem frameCountWord_toNat (w h : Dim) : (frameCountWord w h).toNat = frameCount w h := by
  simp only [frameCountWord, BitVec.toNat_ofNat]
  exact Nat.mod_eq_of_lt (frameCount_lt w h)

theorem frameCountWord_eq_zero (w h : Dim) : frameCountWord w h = 0#33 ↔ frameCount w h = 0 := by
  rw [← frameCountWord_toNat]
  constructor
  · intro e; simp [e]
  · intro e; exact BitVec.eq_of_toNat_eq (by simpa using e)

theorem exec_diff (s : State) : exec .diff s = .next (s.fireIf (diff10 s.input.sData s.input.bData)) := rfl

theorem exec_recon (s : State) : exec .recon s = .next (s.fireIf (recon10 s.input.bData s.input.sData)) := rfl

theorem exec_regRead (reg : Reg) (d : Word) (s : State) :
    exec (.regRead reg d) s = .next { s with ports := { s.ports with regRdata := regRead s.block reg } } := rfl

theorem exec_start (d : Word) (s : State) : exec (.start d) s = .next (if s.block.busy then s else s.startJob d) := rfl

theorem exec_regWrite (reg : Reg) (d : Word) (s : State) :
    exec (.regWrite reg d) s = .next (if s.block.busy then s else s.writeReg reg d) := rfl

/-- A MODE is legal exactly when its two bits differ. -/
theorem legalMode_dataMode (d : Word) : legalMode (dataMode d) = (d.getLsbD 0 != d.getLsbD 1) := by
  have h₀ : (dataMode d).getLsbD 0 = d.getLsbD 0 := by simp [dataMode]
  have h₁ : (dataMode d).getLsbD 1 = d.getLsbD 1 := by simp [dataMode]
  rw [← h₀, ← h₁]
  generalize dataMode d = m
  revert m
  decide

/-- START with a legal MODE stores it and is accepted. -/
theorem State.startJob_of_legal {d : Word} (h : d.getLsbD 0 ≠ d.getLsbD 1) (s : State) :
    s.startJob d = (s.storeMode d).acceptStart := by
  have : legalMode (dataMode d) = true := by rw [legalMode_dataMode]; simpa using h
  rw [State.startJob, if_pos this]

/-- START with an illegal MODE stores it and raises ModeError. -/
theorem State.startJob_of_illegal {d : Word} (h : d.getLsbD 0 = d.getLsbD 1) (s : State) :
    s.startJob d = (s.storeMode d).raiseModeError := by
  have : ¬ legalMode (dataMode d) = true := by rw [legalMode_dataMode, h]; simp
  rw [State.startJob, if_neg this]

/-- A MODE value selects DIFF exactly when it is 0b01; every other value takes RECON's branch. -/
theorem jobInstr_eq (b : Block) : jobInstr b = if b.genBit && !b.recBit then .diff else .recon := by
  cases hg : b.genBit <;> cases hr : b.recBit <;> simp [jobInstr, Block.mode, hg, hr] <;> rfl

end Sys2Proof.Machine
end

