-- ==== Sys2Proof/Laws/Memory.lean ====
section
/-! SUPPORT. The laws of the host frame buffer: every operation keeps the canonical form, and one byte is one byte. -/

namespace Sys2Proof.Machine

theorem Memory.read_write_same (m : Memory) (a : Nat) (b : Byte) : Memory.read (Memory.write m a b) a = some b := by
  induction m with
  | nil => simp [Memory.write, Memory.read]
  | cons e m ih =>
    obtain ⟨x, v⟩ := e
    simp only [Memory.write]
    split
    · simp [Memory.read]
    · split
      · simp [Memory.read]
      · rename_i h₁ h₂
        simp [Memory.read, Ne.symm h₂, ih]

theorem Memory.read_write_other (m : Memory) {a x : Nat} (b : Byte) (h : x ≠ a) :
    Memory.read (Memory.write m a b) x = Memory.read m x := by
  induction m with
  | nil => simp [Memory.write, Memory.read, Ne.symm h]
  | cons e m ih =>
    obtain ⟨y, v⟩ := e
    simp only [Memory.write]
    split
    · simp [Memory.read, Ne.symm h]
    · split
      · rename_i h₂
        subst h₂
        simp [Memory.read, Ne.symm h]
      · simp [Memory.read, ih]

theorem Memory.wf_tail {e : Host.Cell} {m : Memory} (h : Memory.wf (e :: m) = true) : Memory.wf m = true := by
  cases m with
  | nil => rfl
  | cons f m =>
    simp only [Memory.wf, Bool.and_eq_true] at h
    exact h.2

/-- Prepending an entry below the first one keeps the form. -/
theorem Memory.wf_cons {x : Nat} {v : Byte} {m : Memory} (h : Memory.wf m = true)
    (hlt : ∀ e ∈ m.head?, x < e.1) : Memory.wf ((x, v) :: m) = true := by
  cases m with
  | nil => rfl
  | cons f m => simp_all [Memory.wf]

/-- The first offset after a write is the written one or the old first one. -/
theorem Memory.head_write (m : Memory) (a : Nat) (b : Byte) :
    ∀ e ∈ (Memory.write m a b).head?, e.1 = a ∨ ∃ f ∈ m.head?, e.1 = f.1 := by
  cases m with
  | nil => simp [Memory.write]
  | cons f m =>
    obtain ⟨x, v⟩ := f
    simp only [Memory.write]
    split
    · simp
    · split <;> simp

theorem Memory.write_wf (m : Memory) (a : Nat) (b : Byte) (h : Memory.wf m = true) :
    Memory.wf (Memory.write m a b) = true := by
  induction m with
  | nil => rfl
  | cons e m ih =>
    obtain ⟨x, v⟩ := e
    have hm := Memory.wf_tail h
    simp only [Memory.write]
    split
    · exact Memory.wf_cons h (by simpa)
    · split
      · rename_i h₂
        subst h₂
        cases m with
        | nil => rfl
        | cons f m => simpa [Memory.wf] using h
      · rename_i h₁ h₂
        refine Memory.wf_cons (ih hm) ?_
        intro e he
        rcases Memory.head_write m a b e he with h₃ | ⟨f, hf, h₃⟩
        · omega
        · cases m with
          | nil => simp at hf
          | cons g m =>
            simp only [List.head?_cons, Option.mem_def, Option.some.injEq] at hf
            simp only [Memory.wf, Bool.and_eq_true, decide_eq_true_eq] at h
            subst hf
            omega

theorem memWrite_wf (n : Nat) : ∀ (m : Memory) (a v : Nat), Memory.wf m = true → Memory.wf (memWrite m a n v) = true := by
  induction n with
  | zero => intro m a v h; exact h
  | succ n ih => intro m a v h; exact ih _ _ _ (Memory.write_wf m a _ h)

theorem writeSample_wf (m : Memory) (i : Nat) (v : Slot) (h : Memory.wf m = true) :
    Memory.wf (writeSample m i v) = true := memWrite_wf 2 m _ _ h

theorem writeFrame_wf (vs : List Slot) : ∀ (m : Memory) (i : Nat), Memory.wf m = true →
    Memory.wf (writeFrame m i vs) = true := by
  induction vs with
  | nil => intro m i h; exact h
  | cons v vs ih => intro m i h; exact ih _ _ (writeSample_wf m i v h)

theorem State.drain_memWf (s : State) (h : Memory.wf s.mem = true) : Memory.wf s.drain.mem = true := by
  unfold State.drain
  split
  · exact writeSample_wf _ _ _ h
  · exact h

/-- The two bytes a sample store writes. -/
theorem writeSample_eq (m : Memory) (i : Nat) (v : Slot) : writeSample m i v =
    Memory.write (Memory.write m (2 * i) (BitVec.ofNat 8 v.toNat)) (2 * i + 1) (BitVec.ofNat 8 (v.toNat / 256)) := rfl

end Sys2Proof.Machine
end

