-- ==== Sys2Proof/Laws/State.lean ====
section
/-! SUPPORT. One lemma per field per update: what each named update does to each part of the state. -/

namespace Sys2Proof.Machine

section Updates

variable (s : State) (b : Block) (data : Word) (r : Sample) (c : Count)

@[simp] theorem State.storeMode_block : (s.storeMode data).block =
    { s.block with genBit := dataGen data, recBit := dataRec data } := rfl
@[simp] theorem State.storeMode_ports : (s.storeMode data).ports = s.ports := rfl
@[simp] theorem State.storeMode_program : (s.storeMode data).program = s.program := rfl
@[simp] theorem State.storeMode_bSeq : (s.storeMode data).bSeq = s.bSeq := rfl
@[simp] theorem State.storeMode_sSeq : (s.storeMode data).sSeq = s.sSeq := rfl
@[simp] theorem State.storeMode_rSeq : (s.storeMode data).rSeq = s.rSeq := rfl
@[simp] theorem State.storeMode_mem : (s.storeMode data).mem = s.mem := rfl

@[simp] theorem Block.flagsAccepted_busy : (b.flagsAccepted c).busy = (c != 0#33) := rfl
@[simp] theorem Block.flagsAccepted_done : (b.flagsAccepted c).done = (c == 0#33) := rfl
@[simp] theorem Block.flagsAccepted_errMode : (b.flagsAccepted c).errMode = false := rfl
@[simp] theorem Block.flagsAccepted_genBit : (b.flagsAccepted c).genBit = b.genBit := rfl
@[simp] theorem Block.flagsAccepted_recBit : (b.flagsAccepted c).recBit = b.recBit := rfl
@[simp] theorem Block.flagsAccepted_width : (b.flagsAccepted c).width = b.width := rfl
@[simp] theorem Block.flagsAccepted_height : (b.flagsAccepted c).height = b.height := rfl
@[simp] theorem Block.flagsAccepted_count : (b.flagsAccepted c).count = b.count := rfl
@[simp] theorem Block.flagsAccepted_remain : (b.flagsAccepted c).remain = b.remain := rfl
@[simp] theorem Block.flagsAccepted_outReg : (b.flagsAccepted c).outReg = b.outReg := rfl
@[simp] theorem Block.flagsAccepted_outFull : (b.flagsAccepted c).outFull = b.outFull := rfl

@[simp] theorem State.raiseModeError_block : s.raiseModeError.block = { s.block with errMode := true, done := false } := rfl
@[simp] theorem State.raiseModeError_ports : s.raiseModeError.ports = s.ports := rfl
@[simp] theorem State.raiseModeError_program : s.raiseModeError.program = s.program := rfl
@[simp] theorem State.raiseModeError_bSeq : s.raiseModeError.bSeq = s.bSeq := rfl
@[simp] theorem State.raiseModeError_sSeq : s.raiseModeError.sSeq = s.sSeq := rfl
@[simp] theorem State.raiseModeError_rSeq : s.raiseModeError.rSeq = s.rSeq := rfl
@[simp] theorem State.raiseModeError_mem : s.raiseModeError.mem = s.mem := rfl

@[simp] theorem State.acceptStart_block : s.acceptStart.block =
    { s.block with
      count := frameCountWord s.block.width s.block.height
      remain := frameCountWord s.block.width s.block.height
      errMode := false
      busy := frameCountWord s.block.width s.block.height != 0#33
      done := frameCountWord s.block.width s.block.height == 0#33 } := rfl
@[simp] theorem State.acceptStart_ports : s.acceptStart.ports = s.ports := rfl
@[simp] theorem State.acceptStart_program : s.acceptStart.program = s.program := rfl
@[simp] theorem State.acceptStart_bSeq : s.acceptStart.bSeq = [] := rfl
@[simp] theorem State.acceptStart_sSeq : s.acceptStart.sSeq = [] := rfl
@[simp] theorem State.acceptStart_rSeq : s.acceptStart.rSeq = [] := rfl
@[simp] theorem State.acceptStart_mem : s.acceptStart.mem = s.mem := rfl

@[simp] theorem State.fire_block : (s.fire r).block =
    { s.block with outReg := r, outFull := true, remain := s.block.remain - 1#33 } := rfl
@[simp] theorem State.fire_ports : (s.fire r).ports = { s.ports with bReady := true, sReady := true } := rfl
@[simp] theorem State.fire_program : (s.fire r).program = s.program := rfl
@[simp] theorem State.fire_bSeq : (s.fire r).bSeq = s.bSeq ++ [s.input.bData] := rfl
@[simp] theorem State.fire_sSeq : (s.fire r).sSeq = s.sSeq ++ [s.input.sData] := rfl
@[simp] theorem State.fire_rSeq : (s.fire r).rSeq = s.rSeq := rfl
@[simp] theorem State.fire_mem : (s.fire r).mem = s.mem := rfl

@[simp] theorem State.beginCycle_block : s.beginCycle.block = s.block := rfl
@[simp] theorem State.beginCycle_ports : s.beginCycle.ports =
    ⟨false, false, s.block.outFull, resultSlot s.block.outReg, 0#32⟩ := rfl
@[simp] theorem State.beginCycle_program : s.beginCycle.program = s.program := rfl
@[simp] theorem State.beginCycle_input : s.beginCycle.input = s.input := rfl
@[simp] theorem State.beginCycle_bSeq : s.beginCycle.bSeq = s.bSeq := rfl
@[simp] theorem State.beginCycle_sSeq : s.beginCycle.sSeq = s.sSeq := rfl
@[simp] theorem State.beginCycle_rSeq : s.beginCycle.rSeq = s.rSeq := rfl
@[simp] theorem State.beginCycle_mem : s.beginCycle.mem = s.mem := rfl

@[simp] theorem State.advance_block : s.advance.block = s.block := rfl
@[simp] theorem State.advance_ports : s.advance.ports = s.ports := rfl
@[simp] theorem State.advance_program : s.advance.program = s.program.tail := rfl
@[simp] theorem State.advance_bSeq : s.advance.bSeq = s.bSeq := rfl
@[simp] theorem State.advance_sSeq : s.advance.sSeq = s.sSeq := rfl
@[simp] theorem State.advance_rSeq : s.advance.rSeq = s.rSeq := rfl
@[simp] theorem State.advance_mem : s.advance.mem = s.mem := rfl

@[simp] theorem State.resetCycle_block : s.resetCycle.block = Block.reset := rfl
@[simp] theorem State.resetCycle_ports : s.resetCycle.ports = PortsOut.reset := rfl
@[simp] theorem State.resetCycle_program : s.resetCycle.program = s.program.tail := rfl
@[simp] theorem State.resetCycle_bSeq : s.resetCycle.bSeq = [] := rfl
@[simp] theorem State.resetCycle_sSeq : s.resetCycle.sSeq = [] := rfl
@[simp] theorem State.resetCycle_rSeq : s.resetCycle.rSeq = [] := rfl
@[simp] theorem State.resetCycle_mem : s.resetCycle.mem = s.mem := rfl

end Updates

/-! The guarded updates, by case of their guard. -/

section Guards

variable {s : State}

theorem State.drain_of_drains (h : drains s.block s.input = true) : s.drain =
    { s with
      block := { s.block with outFull := false }
      rSeq := s.rSeq ++ [resultSlot s.block.outReg]
      mem := writeSample s.mem s.rSeq.length (resultSlot s.block.outReg) } := by
  simp [State.drain, h]

theorem State.drain_of_not (h : drains s.block s.input = false) : s.drain = s := by
  simp [State.drain, h]

/-- Whatever the guard, a drain changes only OUT_FULL, the R sequence and the output file. -/
theorem State.drain_frame : ∃ f r m, s.drain = { s with block := { s.block with outFull := f }, rSeq := r, mem := m } := by
  cases h : drains s.block s.input with
  | true => exact ⟨_, _, _, State.drain_of_drains h⟩
  | false => exact ⟨s.block.outFull, s.rSeq, s.mem, State.drain_of_not h⟩

@[simp] theorem State.drain_program : s.drain.program = s.program := by
  obtain ⟨_, _, _, h⟩ := State.drain_frame (s := s); rw [h]

@[simp] theorem State.drain_input : s.drain.input = s.input := by simp [State.input]

@[simp] theorem State.drain_ports : s.drain.ports = s.ports := by
  obtain ⟨_, _, _, h⟩ := State.drain_frame (s := s); rw [h]

@[simp] theorem State.drain_bSeq : s.drain.bSeq = s.bSeq := by
  obtain ⟨_, _, _, h⟩ := State.drain_frame (s := s); rw [h]

@[simp] theorem State.drain_sSeq : s.drain.sSeq = s.sSeq := by
  obtain ⟨_, _, _, h⟩ := State.drain_frame (s := s); rw [h]

theorem State.fireIf_of_fires {r : Sample} (h : fires s.block s.input = true) : s.fireIf r = s.fire r := by
  simp [State.fireIf, h]

theorem State.fireIf_of_not {r : Sample} (h : fires s.block s.input = false) : s.fireIf r = s := by
  simp [State.fireIf, h]

theorem State.complete_of_drained (h : s.block.drained = true) :
    s.complete true = { s with block := { s.block with busy := false, done := true } } := by
  simp [State.complete, h, Block.flagsCompleted]

theorem State.complete_of_not (h : s.block.drained = false) (w : Bool) : s.complete w = s := by
  simp [State.complete, h]

@[simp] theorem State.complete_false : s.complete false = s := by
  simp [State.complete]

end Guards

end Sys2Proof.Machine
end

