-- ==== Sys2Proof/Laws/Step.lean ====
section
/-! SUPPORT. What one step can do, said once: a reset cycle, a cycle of a running job, or a cycle while idle. -/

namespace Sys2Proof.Machine

variable {s : State}

/-- A register port command is a read, a START or a write, never a sample operation. -/
theorem portInstr_ne_sampleOp (c : CycleIn) : portInstr c ≠ some .diff ∧ portInstr c ≠ some .recon := by
  unfold portInstr
  split
  · simp only [decode, Decoded.toOption, decodeRegport]
    split <;> [skip; split] <;> simp
  · simp

/-- The port's part of a cycle while BUSY = 1: only a read has an effect, on reg_rdata. -/
theorem portPhase_busy (hb : s.block.busy = true) : portPhase s = .next { s with ports := { s.ports with
    regRdata := match portInstr s.input with
      | some (.regRead reg _) => regRead s.block reg
      | _ => s.ports.regRdata } } := by
  have h := portInstr_ne_sampleOp s.input
  unfold portPhase
  match e : portInstr s.input with
  | none => rfl
  | some (.regRead reg d) => rfl
  | some (.start d) => simp [exec_start, hb]
  | some (.regWrite reg d) => simp [exec_regWrite, hb]
  | some .diff => exact absurd e h.1
  | some .recon => exact absurd e h.2

/-- The port's part of a cycle while BUSY = 0. -/
theorem portPhase_idle (hb : s.block.busy = false) : portPhase s = .next (match portInstr s.input with
    | some (.regRead reg _) => { s with ports := { s.ports with regRdata := regRead s.block reg } }
    | some (.start d) => s.startJob d
    | some (.regWrite reg d) => s.writeReg reg d
    | _ => s) := by
  have h := portInstr_ne_sampleOp s.input
  unfold portPhase
  match e : portInstr s.input with
  | none => rfl
  | some (.regRead reg d) => rfl
  | some (.start d) => simp [exec_start, hb]
  | some (.regWrite reg d) => simp [exec_regWrite, hb]
  | some .diff => exact absurd e h.1
  | some .recon => exact absurd e h.2

/-- A job's operation is the one its two mode bits select, applied to the cycle's slots. -/
theorem exec_jobInstr (b : Block) (t : State) : exec (jobInstr b) t =
    .next (t.fireIf (if b.genBit && !b.recBit then diff10 t.input.sData t.input.bData
      else recon10 t.input.bData t.input.sData)) := by
  rw [jobInstr_eq]
  split <;> rfl

/-- The state that the cycle's command sees: outputs preset, the drain done. -/
theorem beginCycle_drain_block : s.beginCycle.drain.block =
    { s.block with outFull := s.block.outFull && !drains s.block s.input } := by
  by_cases h : drains s.block s.input = true
  · simp [State.drain, h]
  · simp [State.drain, h]

theorem regRead_outFull (b : Block) (f : Bool) (reg : Reg) : regRead { b with outFull := f } reg = regRead b reg := by
  cases reg <;> rfl

theorem step_reset (h : s.input.rst = true) : step s = .next s.resetCycle := by
  simp [step, h]

/-- The result a fire of this block in this cycle computes. -/
def fireResult (b : Block) (c : CycleIn) : Sample :=
  if b.genBit && !b.recBit then diff10 c.sData c.bData else recon10 c.bData c.sData

/-- What a cycle's command puts on reg_rdata. -/
def readData (b : Block) (c : CycleIn) : Word :=
  match portInstr c with
  | some (.regRead reg _) => regRead b reg
  | _ => 0#32

/-- The fire condition is the same before and after the drain: a drained buffer is one the host took. -/
theorem fires_after_drain (b : Block) (c : CycleIn) :
    fires { b with outFull := b.outFull && !drains b c } c = fires b c := by
  simp only [fires, drains]
  cases b.outFull <;> cases c.rReady <;> cases c.rst <;> simp

/-- A cycle of a running job: the drain, a read's value on reg_rdata, the job's operation, completion. A write has no
effect. -/
theorem step_busy (hr : s.input.rst = false) (hb : s.block.busy = true) :
    step s = .next ((State.fireIf
      { s.beginCycle.drain with ports := { s.beginCycle.ports with regRdata := readData s.block s.input } }
      (fireResult s.block s.input)).complete true).advance := by
  have hb' : s.beginCycle.drain.block.busy = true := by rw [beginCycle_drain_block]; exact hb
  rw [step, if_neg (by simp [hr]), portPhase_busy hb', hb]
  simp only [andThen, streamPhase, if_true, exec_jobInstr, State.drain_input, State.beginCycle_input, State.drain_ports,
    beginCycle_drain_block, regRead_outFull]
  have hin : ∀ p : PortsOut, State.input { s.beginCycle.drain with ports := p } = s.input := by
    intro p
    exact (State.drain_input (s := s.beginCycle)).trans rfl
  simp only [State.input, State.drain_program, State.beginCycle_program] at hin ⊢
  rfl

/-- The same cycle as one record: every field of the next state in terms of the state before it. -/
theorem step_busy_eq (hr : s.input.rst = false) (hb : s.block.busy = true) {f d full comp : Bool} {rem : Count}
    (hf : f = fires s.block s.input) (hd : d = drains s.block s.input)
    (hfull : full = (f || (s.block.outFull && !d)))
    (hrem : rem = if f then s.block.remain - 1#33 else s.block.remain)
    (hcomp : comp = (rem == 0#33 && !full)) :
    step s = .next
      { block := { s.block with
          outReg := if f then fireResult s.block s.input else s.block.outReg
          outFull := full
          remain := rem
          busy := !comp
          done := comp || s.block.done }
        ports := ⟨f, f, s.block.outFull, resultSlot s.block.outReg, readData s.block s.input⟩
        program := s.program.tail
        bSeq := if f then s.bSeq ++ [s.input.bData] else s.bSeq
        sSeq := if f then s.sSeq ++ [s.input.sData] else s.sSeq
        rSeq := if d then s.rSeq ++ [resultSlot s.block.outReg] else s.rSeq
        mem := if d then writeSample s.mem s.rSeq.length (resultSlot s.block.outReg) else s.mem } := by
  rw [step_busy hr hb]
  obtain ⟨c, hc⟩ : ∃ c, s.input = c := ⟨_, rfl⟩
  have hin : ∀ b p bs ss rs m, State.input ⟨b, p, s.program, bs, ss, rs, m⟩ = c := fun _ _ _ _ _ _ => hc
  rw [hc] at hf hd ⊢
  have hfd := fires_after_drain s.block c
  rw [← hf, ← hd] at hfd
  have hdrain : s.beginCycle.drain = { s.beginCycle with
      block := { s.block with outFull := s.block.outFull && !d }
      rSeq := if d then s.rSeq ++ [resultSlot s.block.outReg] else s.rSeq
      mem := if d then writeSample s.mem s.rSeq.length (resultSlot s.block.outReg) else s.mem } := by
    have e : drains s.beginCycle.block s.beginCycle.input = d := by rw [hd, ← hc]; rfl
    cases d with
    | true => rw [State.drain_of_drains e]; simp [State.beginCycle]
    | false => rw [State.drain_of_not e]; simp [State.beginCycle]
  rw [hdrain]
  simp only [State.beginCycle, State.fireIf, hin, hfd]
  subst hfull hrem hcomp
  cases f with
  | true => simp [State.fire, State.complete, Block.drained, State.advance, hin, hb]
  | false =>
    simp only [State.complete, Block.drained, Block.flagsCompleted, State.advance]
    cases (s.block.outFull && !d) <;> cases h : s.block.remain == 0#33 <;> simp [h, hb]

/-- A cycle while idle: the drain (which no reachable idle state has), then the command. -/
theorem step_idle (hr : s.input.rst = false) (hb : s.block.busy = false) :
    step s = .next (State.advance (match portInstr s.input with
      | some (.regRead reg _) =>
          { s.beginCycle.drain with ports := { s.beginCycle.ports with regRdata := regRead s.block reg } }
      | some (.start d) => s.beginCycle.drain.startJob d
      | some (.regWrite reg d) => s.beginCycle.drain.writeReg reg d
      | _ => s.beginCycle.drain)) := by
  have hb' : s.beginCycle.drain.block.busy = false := by rw [beginCycle_drain_block]; exact hb
  rw [step, if_neg (by simp [hr]), portPhase_idle hb', hb]
  simp only [andThen, streamPhase, State.complete_false, State.drain_input, State.beginCycle_input, State.drain_ports,
    beginCycle_drain_block, regRead_outFull]
  rfl

/-- An idle state with an empty result buffer drains nothing. -/
theorem drain_idle_empty (hf : s.block.outFull = false) : s.beginCycle.drain = s.beginCycle :=
  State.drain_of_not (by simp [drains, hf])

end Sys2Proof.Machine
end

