-- ==== Sys2Proof/Laws/Job.lean ====
section
/-! SUPPORT. The job invariant under changes that do not concern it, and the terms of Safety on small facts. -/

namespace Sys2Proof.Machine

variable {s : State}

/-- The invariant does not speak of the inputs or the outputs. -/
theorem JobInv.with_host (h : JobInv s) (cs : List CycleIn) (p : PortsOut) : JobInv { s with program := cs, ports := p } :=
  ⟨h.1, h.2, h.3, h.4, h.5, h.6, h.7, h.8, h.9, h.10, h.11, h.12⟩

theorem JobInv.advance (h : JobInv s) : JobInv s.advance :=
  h.with_host s.program.tail s.ports

theorem JobInv.beginCycle (h : JobInv s) : JobInv s.beginCycle :=
  h.with_host s.program _

/-- While a job runs, neither DONE nor ERR_MODE is set. -/
theorem JobInv.running_flags (h : JobInv s) (hb : s.block.busy = true) :
    s.block.done = false ∧ s.block.errMode = false := by
  constructor
  · cases e : s.block.done with
    | false => rfl
    | true => exact absurd hb (by simp [h.doneIdle e])
  · cases e : s.block.errMode with
    | false => rfl
    | true => exact absurd hb (by simp [(h.errIdle e).1])

/-- A legal job's fire puts the pair's result in OUT_REG. -/
theorem resultSlot_fireResult (b : Block) (c : CycleIn) (h : b.mode = 0b01#2 ∨ b.mode = 0b10#2) :
    resultSlot (fireResult b c) = pairResult b.mode c.bData c.sData := by
  cases hg : b.genBit <;> cases hr : b.recBit <;> simp [Block.mode, hg, hr] at h <;>
    simp [pairResult, fireResult, Block.mode, hg, hr]

/-- The fire condition, clause by clause. -/
theorem fires_iff (b : Block) (c : CycleIn) : fires b c = true ↔
    c.rst = false ∧ b.busy = true ∧ b.remain ≠ 0#33 ∧ c.bValid = true ∧ c.sValid = true ∧
      (b.outFull = false ∨ c.rReady = true) := by
  simp [fires, and_assoc]

/-- A decrement of a count that is not 0 does not wrap. -/
theorem remain_sub_one {r : Count} (h : r ≠ 0#33) : (r - 1#33).toNat + 1 = r.toNat := by
  have h0 : r.toNat ≠ 0 := fun e => h (BitVec.eq_of_toNat_eq e)
  have := r.isLt
  simp only [BitVec.toNat_sub, BitVec.toNat_ofNat]
  omega

theorem reaches_zero (t : State) : reaches 0 s t ↔ s = t := by
  show Host.Outcome.next s = .next t ↔ _
  constructor
  · intro h; injection h
  · rintro rfl; rfl

theorem reaches_succ {k : Nat} {t u : State} (h : step s = .next t) : reaches (k + 1) s u ↔ reaches k t u := by
  have h' : Sys2Proof.core.step s = .next t := h
  simp only [reaches, Host.Core.run, h']

theorem reaches_one {t : State} (h : step s = .next t) : reaches 1 s t :=
  (reaches_succ h).2 ((reaches_zero t).2 rfl)

end Sys2Proof.Machine
end

