-- ==== Sys2Proof/Laws/PerInstr.lean ====
section
/-! SUPPORT. One statement for all instructions, by constructor: the encoder's word is in its row of the opcode table
(30_encoding.md R63, opcode_table.json). -/

namespace Sys2Proof.Laws.TableRow

/-- The word matches a row's match and mask. -/
def matchesMode (c : CodeWord) (pat mask : Mode) : Prop := ∃ m, c = .mode m ∧ m &&& mask = pat

/-- The word matches a row's match and mask. -/
def matchesRegport (c : CodeWord) (pat mask : Transaction) : Prop := ∃ t, c = .regport t ∧ t &&& mask = pat

/-- A well-formed instruction is encoded in its own row, and a REG_WRITE is not in START's. -/
def Statement (i : Instr) : Prop :=
  i.wf = true →
    match i with
    | .diff => matchesMode (encode i) 0b01#2 0b11#2
    | .recon => matchesMode (encode i) 0b10#2 0b11#2
    | .regRead _ _ => matchesRegport (encode i) 0x000000000#36 0x800000000#36
    | .start _ => matchesRegport (encode i) 0x800000004#36 0xF00000004#36
    | .regWrite _ _ => matchesRegport (encode i) 0x800000000#36 0x800000000#36 ∧
        ¬ matchesRegport (encode i) 0x800000004#36 0xF00000004#36

/-- Bit k of a transaction, field by field. -/
theorem getLsbD_make (we : Bool) (a : RegIndex) (d : Word) (k : Nat) :
    (Transaction.make we a d).getLsbD k =
      if k < 32 then d.getLsbD k else if k < 35 then a.getLsbD (k - 32) else (decide (k = 35) && we) := by
  simp only [Transaction.make, BitVec.getLsbD_append, BitVec.getLsbD_ofBool]
  by_cases h : k < 32
  · simp [h]
  · by_cases h' : k < 35
    · simp [h, h', show k - 32 < 3 by omega]
    · have e : (k - 32 - 3 = 0) = (k = 35) := propext (by omega)
      simp [h, h', show ¬ k - 32 < 3 by omega, e]

theorem weMask_bits : ∀ k : Fin 36, (0x800000000#36).getLsbD k = decide (k.val = 35) := by decide

theorem startMask_bits : ∀ k : Fin 36, (0xF00000004#36).getLsbD k = (decide (k.val = 2) || decide (32 ≤ k.val)) := by decide

theorem startPattern_bits : ∀ k : Fin 36, (0x800000004#36).getLsbD k = (decide (k.val = 2) || decide (k.val = 35)) := by decide

/-- A word masked to its WE bit. -/
theorem make_and_we (we : Bool) (a : RegIndex) (d : Word) :
    Transaction.make we a d &&& 0x800000000#36 = if we then 0x800000000#36 else 0#36 := by
  apply BitVec.eq_of_getLsbD_eq
  intro k hk
  rw [BitVec.getLsbD_and, getLsbD_make, weMask_bits ⟨k, hk⟩]
  by_cases h : k = 35
  · subst h; cases we <;> simp
  · have : (0x800000000#36).getLsbD k = false := by simpa [h] using weMask_bits ⟨k, hk⟩
    cases we <;> simp [h, this]

/-- A write's word masked to WE, ADDR and the START bit. -/
theorem make_and_start (a : RegIndex) (d : Word) :
    Transaction.make true a d &&& 0xF00000004#36 = 0x800000004#36 ↔ a = 0#3 ∧ isStartData d = true := by
  have key : ∀ k, k < 36 → ((Transaction.make true a d &&& 0xF00000004#36).getLsbD k = (0x800000004#36).getLsbD k ↔
      (k = 2 → d.getLsbD 2 = true) ∧ (32 ≤ k → k < 35 → a.getLsbD (k - 32) = false)) := by
    intro k hk
    rw [BitVec.getLsbD_and, getLsbD_make, startMask_bits ⟨k, hk⟩, startPattern_bits ⟨k, hk⟩]
    by_cases h2 : k = 2
    · subst h2; simp
    · by_cases h32 : k < 32
      · simp [h2, h32, show ¬ 32 ≤ k by omega, show k ≠ 35 by omega]
      · by_cases h35 : k < 35
        · simp [h2, h32, h35, show 32 ≤ k by omega, show k ≠ 35 by omega]
        · simp [show k = 35 by omega]
  constructor
  · intro h
    have hk := fun k hk => (key k hk).1 (by rw [h])
    refine ⟨BitVec.eq_of_getLsbD_eq fun j hj => ?_, (hk 2 (by omega)).1 rfl⟩
    have := (hk (32 + j) (by omega)).2 (by omega) (by omega)
    simpa using this
  · rintro ⟨rfl, hd⟩
    exact BitVec.eq_of_getLsbD_eq fun k hk => (key k hk).2 ⟨fun _ => hd, fun _ _ => by simp⟩

theorem index_eq_zero {r : Reg} : r.index = 0#3 ↔ r = .ctrl := by
  cases r <;> decide

theorem diff : Statement .diff := fun _ => ⟨_, rfl, by decide⟩

theorem recon : Statement .recon := fun _ => ⟨_, rfl, by decide⟩

theorem regRead (reg : Reg) (ignored : Word) : Statement (.regRead reg ignored) :=
  fun _ => ⟨_, rfl, by simp [make_and_we]⟩

theorem start (data : Word) : Statement (.start data) :=
  fun h => ⟨_, rfl, (make_and_start _ _).2 ⟨rfl, h⟩⟩

theorem regWrite (reg : Reg) (data : Word) : Statement (.regWrite reg data) := by
  intro h
  refine ⟨⟨_, rfl, by simp [make_and_we]⟩, ?_⟩
  rintro ⟨t, ht, e⟩
  simp only [encode, CodeWord.regport.injEq] at ht
  subst ht
  obtain ⟨h0, hs⟩ := (make_and_start _ _).1 e
  rw [index_eq_zero] at h0
  subst h0
  simp [Instr.wf, hs] at h

end Sys2Proof.Laws.TableRow
end

