-- ==== Sys2Proof/Tests/Slice0.lean ====
section
/-! SUPPORT. Small tests, their expected results taken from spec/95_test_vectors.md and the rules named, and a witness for
the hypotheses of each statement. -/

namespace Sys2Proof.Tests

open Sys2Proof.Machine

/-! ## Well-formedness: an ill-formed term for each check -/

theorem test_wf_refuses_start_without_start_bit : (Instr.start 0x3#32).wf = false := by decide
theorem test_wf_refuses_write_to_ctrl_with_start_bit : (Instr.regWrite .ctrl 0x5#32).wf = false := by decide
theorem test_wf_accepts_start_bit_elsewhere : (Instr.regWrite .status 0x4#32).wf = true := by decide

/-! ## Decoding: words from 30_encoding.md R70 and 95_test_vectors.md L2.4 -/

theorem test_decode_diff : decode (.mode 0b01#2) = .ok .diff := by decide
theorem test_decode_recon : decode (.mode 0b10#2) = .ok .recon := by decide
theorem test_decode_mode_none : decode (.mode 0b00#2) = .rejected .modeNone := by decide
theorem test_decode_mode_both : decode (.mode 0b11#2) = .rejected .modeBoth := by decide
/-- T3: WE = 0, ADDR = 0b111, DATA all ones, bit by bit. -/
theorem test_decode_read_remain_hi :
    decode (.regport 0b011111111111111111111111111111111111#36) = .ok (.regRead .remainHi 0xFFFFFFFF#32) := by decide
/-- T5: WE = 1, ADDR = 0b000, DATA = 0b101. -/
theorem test_decode_start_gen :
    decode (.regport 0b100000000000000000000000000000000101#36) = .ok (.start 0x5#32) := by decide
/-- T10: START bit set among other ignored bits. -/
theorem test_decode_start_none : decode (.regport 0x8FFFFFFFC#36) = .ok (.start 0xFFFFFFFC#32) := by decide
/-- T11: the same word with the START bit clear is a REG_WRITE. -/
theorem test_decode_write_ctrl : decode (.regport 0x8FFFFFFFB#36) = .ok (.regWrite .ctrl 0xFFFFFFFB#32) := by decide
/-- T14: bit 2 of another register's data is no START. -/
theorem test_decode_write_status : decode (.regport 0x900000004#36) = .ok (.regWrite .status 0x4#32) := by decide
/-- R58, R67: `wr WIDTH, 4` is 0xA00000004. -/
theorem test_encode_write_width : encode (.regWrite .width 4#32) = .regport 0xA00000004#36 := by decide
theorem test_table_word_diff : decodeTableWord 8 1 = some .diff := by decide
theorem test_table_word_rejects_bits_above_mode : decodeTableWord 8 5 = none := by decide
theorem test_table_word_rejects_bits_above_transaction : decodeTableWord 40 0x8000000000 = none := by decide

/-! ## One instruction, one step -/

/-- The state a step or a meaning answers. -/
def after : Host.Outcome State Fault Refusal → Option State
  | .next s => some s
  | .fault _ => none
  | .refused _ => none

/-- A running job with the given input cycle next. -/
def job (gen : Bool) (remain : Count) (outReg : Sample) (outFull : Bool) (c : CycleIn) : State :=
  { State.reset with
    block := { Block.reset with
      genBit := gen, recBit := !gen, busy := true, count := 5#33, remain := remain, outReg := outReg, outFull := outFull }
    program := [c] }

/-- An idle block after reset, with the given input cycles. -/
def idle (cs : List CycleIn) : State := { State.reset with program := cs }

/-- Scenario A (95_test_vectors.md E3): diff10(0, 100) = 412. -/
theorem test_diff_scenario_a :
    (after (exec .diff (job true 5#33 0#10 false ((CycleIn.nop.withB 0x064#16).withS 0x000#16)))).map (·.block.outReg) =
      some 412#10 := by decide
/-- DF14: upper bits set on both slots, and a difference of -1023 wraps to 513. -/
theorem test_diff_wraps_and_ignores_upper_bits : diff10 0x0400#16 0x07FF#16 = 513#10 := by decide
/-- S10: the largest RECON sum, 510. -/
theorem test_recon_fires :
    (after (exec .recon (job false 1#33 0#10 false ((CycleIn.nop.withB 0x3FF#16).withS 0x3FF#16)))).map (·.block.outReg) =
      some 510#10 := by decide
/-- RC1: a negative v wraps upwards to 924. -/
theorem test_recon_wraps : recon10 0x0000#16 0x019C#16 = 924#10 := by decide
/-- L2.5: `rd WIDTH` after reset. -/
theorem test_read_width_after_reset :
    (after (step (idle [.rd .width]))).map (·.ports.regRdata) = some 0x00000F00#32 := by decide
/-- L2.3, last row: COUNT_HI of the largest frame is 1. -/
theorem test_read_count_hi :
    regRead { Block.reset with count := frameCountWord 65535#16 65535#16 } .countHi = 1#32 := by decide
/-- W2: DATA[31:16] is ignored. -/
theorem test_write_height : (after (step (idle [.wr .height 0x10002#32]))).map (·.block.height) = some 2#16 := by decide
/-- W11: a write while BUSY = 1 is lost. -/
theorem test_write_while_busy :
    (after (step (job true 5#33 0#10 false (.wr .width 5#32)))).map (·.block.width) = some 0x0F00#16 := by decide
/-- W8: START at the default dimensions. -/
theorem test_start_default_count :
    (after (step (idle [.startGen]))).map (fun t => (t.block.count, t.block.remain, t.block.busy)) =
      some (12441600#33, 12441600#33, true) := by decide
/-- T7: START with MODE 0b11 raises ModeError and keeps the written bits. -/
theorem test_start_mode_error :
    (after (step (idle [.wr .ctrl 0x7#32]))).map (fun t => (t.block.statusWord, t.block.ctrlWord)) =
      some (4#32, 3#32) := by decide

/-! ## Single cycles of a job: 95_test_vectors.md L2.7 -/

/-- S6: fire and drain in one cycle; the host takes the old result. -/
theorem test_cycle_fire_and_drain :
    (after (step (job true 4#33 0x123#10 true (((CycleIn.nop.withB 0x003#16).withS 0x008#16).withR)))).map
      (fun t => (t.block.remain, t.block.outReg, t.block.outFull, t.rSeq, t.ports.bReady)) =
      some (3#33, 0x205#10, true, [0x0123#16], true) := by decide
/-- S5: without R the block stalls. -/
theorem test_cycle_stall :
    (after (step (job true 4#33 0x123#10 true ((CycleIn.nop.withB 0x003#16).withS 0x008#16)))).map
      (fun t => (t.block.remain, t.block.outReg, t.ports.bReady, t.ports.rData)) =
      some (4#33, 0x123#10, false, 0x0123#16) := by decide
/-- S8: the last drain completes the job; a surplus pair is not taken. -/
theorem test_cycle_completion :
    (after (step (job false 0#33 0x3FF#10 true (((CycleIn.nop.withB 0x003#16).withS 0x008#16).withR)))).map
      (fun t => (t.block.busy, t.block.done, t.block.outFull, t.ports.bReady)) =
      some (false, true, false, false) := by decide
/-- S8 and R43: the transferred 0x03FF goes to the output file, low byte first. -/
theorem test_cycle_drain_stores :
    (after (step (job false 0#33 0x3FF#10 true (CycleIn.nop.withR)))).map (·.mem) =
      some [(0, 0xFF#8), (1, 0x03#8)] := by decide
/-- P7, c6: a START in the completion cycle is lost. -/
theorem test_cycle_start_at_completion_is_lost :
    (after (step (job true 0#33 0x1FB#10 true (CycleIn.startRec.withR)))).map
      (fun t => (t.block.busy, t.block.done, t.block.genBit, t.block.recBit)) =
      some (false, true, true, false) := by decide
/-- S11: reset from the middle of a job. -/
theorem test_cycle_reset :
    (after (step (job true 4#33 0x123#10 true (((CycleIn.reset.withB 0x003#16).withS 0x008#16).withR)))).map
      (fun t => (t.block, t.ports)) = some (Block.reset, PortsOut.reset) := by decide

/-! ## The host's memory: 95_test_vectors.md L2.8 -/

theorem test_sample_bytes : writeSample [] 1 0x019C#16 = [(2, 0x9C#8), (3, 0x01#8)] := by decide
theorem test_memory_write_keeps_order :
    Memory.write [(0, 1#8), (4, 2#8)] 2 9#8 = [(0, 1#8), (2, 9#8), (4, 2#8)] := by decide
/-- L2.8: in a 4 x 2 frame, sample 10 starts the second chroma plane. -/
theorem test_plane_of_sample_ten : planeOf 4#16 2#16 10 = some .chroma2 := by decide

/-! ## Placed words -/

theorem test_placed_diff_runs :
    (after (step (State.reset.withFetchWord 8 1))).map (fun t => (t.ports.bReady, t.block.outReg)) =
      some (true, 512#10) := by decide
theorem test_placed_write_runs :
    (after (step (State.reset.withFetchWord 40 0xA00000004))).map (·.block.width) = some 4#16 := by decide

/-! ## Witnesses: for each statement with hypotheses, values that meet them -/

/-- A 1 x 2 job just started, no input yet; its next cycle offers both and takes. -/
def started (cs : List CycleIn) : State :=
  { State.reset with
    block := { Block.reset with
      genBit := true, busy := true, width := 1#16, height := 2#16, count := 2#33, remain := 2#33 }
    program := cs }

/-- A 1 x 1 job whose one result waits to be taken. -/
def lastResult (cs : List CycleIn) : State :=
  { State.reset with
    block := { Block.reset with
      genBit := true, busy := true, width := 1#16, height := 1#16, count := 1#33, outReg := 412#10, outFull := true }
    program := cs
    bSeq := [100#16]
    sSeq := [0#16] }

/-- Idle after a finished 1 x 1 job. -/
def finished (cs : List CycleIn) : State :=
  { State.reset with
    block := { Block.reset with genBit := true, done := true, width := 1#16, height := 1#16, count := 1#33, outReg := 412#10 }
    program := cs
    bSeq := [100#16]
    sSeq := [0#16]
    rSeq := [412#16]
    mem := [(0, 0x9C#8), (1, 0x01#8)] }

/-- Idle after a rejected START. -/
def rejected (cs : List CycleIn) : State :=
  { State.reset with block := { Block.reset with errMode := true, width := 1#16, height := 1#16 }, program := cs }

/-- Idle, dimensions 0 x 1. -/
def emptyFrame (cs : List CycleIn) : State :=
  { State.reset with block := { Block.reset with width := 0#16, height := 1#16 }, program := cs }

/-- A pair offered and the output taken. -/
def served : CycleIn := ((CycleIn.nop.withB 100#16).withS 0#16).withR

theorem jobInv_started (cs : List CycleIn) : JobInv (started cs) :=
  have h : JobInv (started []) := ⟨by decide, by decide, by decide, by decide, by decide, by decide, by decide, by decide,
    by decide, by decide, by decide, by decide⟩
  h.with_host cs PortsOut.reset

theorem jobInv_lastResult (cs : List CycleIn) : JobInv (lastResult cs) :=
  have h : JobInv (lastResult []) := ⟨by decide, by decide, by decide, by decide, by decide, by decide, by decide, by decide,
    by decide, by decide, by decide, by decide⟩
  h.with_host cs PortsOut.reset

theorem jobInv_finished (cs : List CycleIn) : JobInv (finished cs) :=
  have h : JobInv (finished []) := ⟨by decide, by decide, by decide, by decide, by decide, by decide, by decide, by decide,
    by decide, by decide, by decide, by decide⟩
  h.with_host cs PortsOut.reset

theorem jobInv_rejected (cs : List CycleIn) : JobInv (rejected cs) :=
  have h : JobInv (rejected []) := ⟨by decide, by decide, by decide, by decide, by decide, by decide, by decide, by decide,
    by decide, by decide, by decide, by decide⟩
  h.with_host cs PortsOut.reset

theorem jobInv_emptyFrame (cs : List CycleIn) : JobInv (emptyFrame cs) :=
  have h : JobInv (emptyFrame []) := ⟨by decide, by decide, by decide, by decide, by decide, by decide, by decide, by decide,
    by decide, by decide, by decide, by decide⟩
  h.with_host cs PortsOut.reset


/-! Encoding. -/

theorem witness_DecodeOfEncodeIsIdentity_start : (Instr.start 0x5#32).wf = true := by decide
theorem witness_DecodeOfEncodeIsIdentity_regWrite : (Instr.regWrite .remainHi 0xFFFFFFFF#32).wf = true := by decide
theorem witness_EncodeOfDecodeIsIdentity_mode : decode (.mode 0b10#2) = .ok .recon := by decide
theorem witness_EncodeOfDecodeIsIdentity_regport : decode (.regport 0x800000004#36) = .ok (.start 4#32) := by decide
/-- The first words of each row, on both sides of where rows meet. -/
theorem witness_EveryTransactionDecodesInItsRow_read : (0x7FFFFFFFF#36) &&& 0x800000000#36 = 0x000000000#36 := by decide
theorem witness_EveryTransactionDecodesInItsRow_start : (0x800000004#36) &&& 0xF00000004#36 = 0x800000004#36 := by decide
theorem witness_EveryTransactionDecodesInItsRow_write :
    (0x900000004#36) &&& 0x800000000#36 = 0x800000000#36 ∧ (0x900000004#36) &&& 0xF00000004#36 ≠ 0x800000004#36 := by decide
theorem witness_PlacedWordRunsNext : ∃ w, w < 2 ^ 36 ∧ decodeTableWord 40 w = some (.regWrite .remainHi 0xFFFFFFFF#32) :=
  ⟨0xFFFFFFFFF, by decide, by decide⟩

/-! The sample operations, frames and memory. -/

theorem witness_ReconOfDiffIsMinuend : (1023#16).toNat ≤ 1023 ∧ (0#16).toNat ≤ 1023 := by decide
theorem witness_DiffOfReconIsDifference : (1023#16).toNat ≤ 1023 := by decide
/-- The two ends of the natural range. -/
theorem witness_BiasCentresDifferences :
    (-512 : Int) ≤ ((0#16).toNat % 1024 : Nat) - ((512#16).toNat % 1024 : Nat) ∧
    (((511#16).toNat % 1024 : Nat) : Int) - ((0#16).toNat % 1024 : Nat) ≤ 511 := by decide
theorem witness_UpperSlotBitsAreIgnored :
    (0xFC64#16).extractLsb' 0 10 = (0x0064#16).extractLsb' 0 10 ∧ (0x819C#16).extractLsb' 0 10 = (0x019C#16).extractLsb' 0 10 := by
  decide
/-- A product in each residue class modulo 4 (95_test_vectors.md L2.3). -/
theorem witness_FrameCountAgainstThreeHalves :
    (4 * 2) % 4 = 0 ∧ (1 * 1) % 4 = 1 ∧ (2 * 1) % 4 = 2 ∧ (7 * 1) % 4 = 3 := by decide
theorem witness_SampleBytesAreLittleEndian :
    Memory.read [(0, 0x9C#8), (1, 0x01#8)] (2 * 0) = some 0x9C#8 ∧
    Memory.read [(0, 0x9C#8), (1, 0x01#8)] (2 * 0 + 1) = some 0x01#8 ∧
    memRead [(0, 0x9C#8), (1, 0x01#8)] (0 + 1) 1 = some 1 := by decide

/-! The register commands. -/

theorem witness_RegWriteWhileIdle_start_bit : State.reset.block.busy = false ∧ (0x5#32).getLsbD 2 = true := by decide
theorem witness_RegWriteWhileIdle_no_start_bit : State.reset.block.busy = false ∧ (0x3#32).getLsbD 2 = false := by decide
theorem witness_StartAccepted : State.reset.block.busy = false ∧ (0x5#32).getLsbD 0 ≠ (0x5#32).getLsbD 1 := by decide
theorem witness_StartAccepted_empty :
    (emptyFrame []).block.busy = false ∧ frameCount (emptyFrame []).block.width (emptyFrame []).block.height = 0 := by decide
theorem witness_StartRejectedRaisesModeError :
    State.reset.block.busy = false ∧ (0x7#32).getLsbD 0 = (0x7#32).getLsbD 1 ∧ (0x4#32).getLsbD 0 = (0x4#32).getLsbD 1 := by
  decide
theorem witness_WritesIgnoredWhileBusy : (started []).block.busy = true := by decide
theorem witness_StreamSequencesRestartAtStart :
    (∃ t, exec (.start 0x6#32) (finished []) = .next t) ∧ (finished []).block.busy = false ∧
      (0x6#32).getLsbD 0 ≠ (0x6#32).getLsbD 1 :=
  ⟨⟨_, rfl⟩, by decide, by decide⟩
theorem witness_StreamSequencesRestartAtStart_rejected :
    (∃ t, exec (.start 0x7#32) (finished []) = .next t) ∧ ¬ ((0x7#32).getLsbD 0 ≠ (0x7#32).getLsbD 1) :=
  ⟨⟨_, rfl⟩, by decide⟩
theorem witness_RegisterCommandFrame :
    (∃ t, exec (.regRead .status 0#32) State.reset = .next t) ∧
    ((Instr.regWrite .height 7#32).wf = true ∧ ∃ t, exec (.regWrite .height 7#32) State.reset = .next t) ∧
    (∃ t, exec (.start 0x7#32) State.reset = .next t) :=
  ⟨⟨_, rfl⟩, ⟨by decide, ⟨_, rfl⟩⟩, ⟨_, rfl⟩⟩

/-! The sample operations in a job. -/

theorem witness_DiffFires_and_ReconFires :
    (started [served]).input.rst = false ∧ (started [served]).block.busy = true ∧ (started [served]).block.remain ≠ 0#33 ∧
    (started [served]).input.bValid = true ∧ (started [served]).input.sValid = true ∧
    ((started [served]).block.outFull = false ∨ (started [served]).input.rReady = true) := by decide
/-- A full buffer that the host takes in the same cycle. -/
theorem witness_DiffFires_full_buffer :
    (job true 4#33 0x123#10 true served).block.outFull = true ∧ (job true 4#33 0x123#10 true served).input.rReady = true ∧
    fires (job true 4#33 0x123#10 true served).block (job true 4#33 0x123#10 true served).input = true := by decide
/-- One witness for each way not to fire. -/
theorem witness_SampleOpsWaitWithoutFire :
    (started [CycleIn.reset]).input.rst = true ∧ State.reset.block.busy = false ∧
    (lastResult [served]).block.remain = 0#33 ∧ (started [CycleIn.nop.withS 0#16]).input.bValid = false ∧
    (started [CycleIn.nop.withB 0#16]).input.sValid = false ∧
    ((lastResult [CycleIn.nop]).block.outFull = true ∧ (lastResult [CycleIn.nop]).input.rReady = false) := by decide
theorem witness_SampleOpFrame :
    (∃ t, exec .diff (started [served]) = .next t) ∧ ∃ t, exec .recon (started [served]) = .next t :=
  ⟨⟨_, rfl⟩, ⟨_, rfl⟩⟩
/-- Two states that differ in dimensions, counters and the upper slot bits. -/
theorem witness_FireResultDependsOnSlotsOnly :
    let s₁ := started [served]
    let s₂ := job true 5#33 0x123#10 false ((CycleIn.nop.withB 0xFC64#16).withS 0x8000#16)
    (∃ t, step s₁ = .next t) ∧ (∃ t, step s₂ = .next t) ∧ fires s₁.block s₁.input = true ∧
    fires s₂.block s₂.input = true ∧ s₁.block.mode = s₂.block.mode ∧
    s₁.input.bData.extractLsb' 0 10 = s₂.input.bData.extractLsb' 0 10 ∧
    s₁.input.sData.extractLsb' 0 10 = s₂.input.sData.extractLsb' 0 10 :=
  ⟨⟨_, rfl⟩, ⟨_, rfl⟩, by decide, by decide, by decide, by decide, by decide⟩
theorem witness_StepIgnoresUpperSlotBits :
    let s := started [served]
    (0xFC64#16).extractLsb' 0 10 = s.input.bData.extractLsb' 0 10 ∧
    (0x8000#16).extractLsb' 0 10 = s.input.sData.extractLsb' 0 10 ∧
    (∃ t, step (s.withInput s.input) = .next t) ∧
    ∃ t, step (s.withInput { s.input with bData := 0xFC64#16, sData := 0x8000#16 }) = .next t :=
  ⟨by decide, by decide, ⟨_, rfl⟩, ⟨_, rfl⟩⟩

/-! The cycle. -/

theorem witness_ResetCycleFromAnyState : (started [CycleIn.reset]).input.rst = true := by decide
theorem witness_StepRunsDecodedInstructions_port :
    let s := idle [CycleIn.wr .width 7#32]
    s.input.rst = false ∧ s.input.regEn = true ∧ decode (.regport s.input.transaction) = .ok (.regWrite .width 7#32) ∧
    s.block.busy = false ∧ ∃ t, exec (.regWrite .width 7#32) s.beginCycle.drain = .next t :=
  ⟨by decide, by decide, by decide, by decide, ⟨_, rfl⟩⟩
theorem witness_StepRunsDecodedInstructions_both :
    let s := started [((CycleIn.poll.withB 100#16).withS 0#16).withR]
    s.input.rst = false ∧ s.input.regEn = true ∧ decode (.regport s.input.transaction) = .ok (.regRead .status 0#32) ∧
    s.block.busy = true ∧ decode (.mode s.block.mode) = .ok .diff ∧
    ∃ t u, exec (.regRead .status 0#32) s.beginCycle.drain = .next t ∧ exec .diff t = .next u :=
  ⟨by decide, by decide, by decide, by decide, by decide, ⟨_, _, rfl, rfl⟩⟩
theorem witness_StepRunsDecodedInstructions_stream :
    let s := started [served]
    s.input.rst = false ∧ s.input.regEn = false ∧ s.block.busy = true ∧ decode (.mode s.block.mode) = .ok .diff ∧
    ∃ u, exec .diff s.beginCycle.drain = .next u :=
  ⟨by decide, by decide, by decide, by decide, ⟨_, rfl⟩⟩
theorem witness_StepRunsDecodedInstructions_nothing :
    State.reset.input.rst = false ∧ State.reset.input.regEn = false ∧ State.reset.block.busy = false := by decide
theorem witness_PortsFollowTheOutputFunction : ∃ t, step (lastResult [served]) = .next t := ⟨_, rfl⟩
theorem witness_IdleMeansNothingLeft :
    ∃ t, step (lastResult [served]) = .next t ∧ t.block.busy = false ∧ (lastResult [served]).block.busy = true :=
  ⟨_, rfl, by decide, by decide⟩
theorem witness_StepKeepsJobInv : JobInv (started [served]) ∧ ∃ t, step (started [served]) = .next t :=
  ⟨jobInv_started _, _, rfl⟩
theorem witness_DrainHandsOverTheResult_taken :
    let s := lastResult [served]
    s.block.busy = true ∧ s.input.rst = false ∧ s.block.outFull = true ∧ s.input.rReady = true ∧ ∃ t, step s = .next t :=
  ⟨by decide, by decide, by decide, by decide, _, rfl⟩
theorem witness_DrainHandsOverTheResult_held :
    let s := lastResult [CycleIn.nop]
    s.block.busy = true ∧ s.input.rst = false ∧ s.block.outFull = true ∧ s.input.rReady = false ∧ ∃ t, step s = .next t :=
  ⟨by decide, by decide, by decide, by decide, _, rfl⟩
theorem witness_OnlyADrainStores :
    (drains (lastResult [served]).block (lastResult [served]).input = true ∧ ∃ t, step (lastResult [served]) = .next t) ∧
    drains (started [served]).block (started [served]).input = false ∧ ∃ t, step (started [served]) = .next t :=
  ⟨⟨by decide, _, rfl⟩, by decide, _, rfl⟩
theorem witness_CompletionDeliversTheWholeFrame :
    JobInv (lastResult [served]) ∧ (lastResult [served]).input.rst = false ∧ (lastResult [served]).block.busy = true ∧
    ∃ t, step (lastResult [served]) = .next t ∧ t.block.busy = false :=
  ⟨jobInv_lastResult _, by decide, by decide, _, rfl, by decide⟩
theorem witness_BusyCycleIgnoresWrites :
    (lastResult [CycleIn.startRec.withR]).block.busy = true ∧ (lastResult [CycleIn.startRec.withR]).input.writes = true := by
  decide
theorem witness_RunningJobIsFrozen :
    let s := lastResult [CycleIn.wr .width 9#32]
    s.block.busy = true ∧ s.input.rst = false ∧ ∃ t, step s = .next t :=
  ⟨by decide, by decide, _, rfl⟩
theorem witness_StatusBitsChangeOnlyAtTheirEvents_done :
    JobInv (finished [CycleIn.startGen]) ∧ (finished [CycleIn.startGen]).block.done = true ∧
    acceptsStart (finished [CycleIn.startGen]) ∧ ∃ t, step (finished [CycleIn.startGen]) = .next t :=
  ⟨jobInv_finished _, by decide, ⟨by decide, by decide, 5#32, by decide, by decide⟩, _, rfl⟩
theorem witness_StatusBitsChangeOnlyAtTheirEvents_error :
    JobInv (rejected [CycleIn.startGen]) ∧ (rejected [CycleIn.startGen]).block.errMode = true ∧
    acceptsStart (rejected [CycleIn.startGen]) ∧ ∃ t, step (rejected [CycleIn.startGen]) = .next t :=
  ⟨jobInv_rejected _, by decide, ⟨by decide, by decide, 5#32, by decide, by decide⟩, _, rfl⟩
theorem witness_StatusBitsChangeOnlyAtTheirEvents_empty :
    JobInv (emptyFrame [CycleIn.startGen]) ∧ frameCount (emptyFrame []).block.width (emptyFrame []).block.height = 0 ∧
    ∃ t, step (emptyFrame [CycleIn.startGen]) = .next t ∧ t.block.done = true :=
  ⟨jobInv_emptyFrame _, by decide, _, rfl, by decide⟩
theorem witness_StatusBitsChangeOnlyAtTheirEvents_busy :
    JobInv (lastResult [served]) ∧ (lastResult [served]).block.busy = true ∧ ∃ t, step (lastResult [served]) = .next t :=
  ⟨jobInv_lastResult _, by decide, _, rfl⟩
theorem witness_CountAndRemainWriters :
    (∃ t, step (finished [CycleIn.startGen]) = .next t) ∧ (finished [CycleIn.startGen]).input.rst = false ∧
    (∃ t, step (started [served]) = .next t) ∧ (started [served]).input.rst = false ∧
    fires (started [served]).block (started [served]).input = true :=
  ⟨⟨_, rfl⟩, by decide, ⟨_, rfl⟩, by decide, by decide⟩
theorem witness_SurplusInputIsNotTaken :
    (JobInv (lastResult [served]) ∧ (lastResult [served]).block.remain = 0#33 ∧ ∃ t, step (lastResult [served]) = .next t) ∧
    JobInv (finished [served]) ∧ (finished [served]).block.busy = false ∧ ∃ t, step (finished [served]) = .next t :=
  ⟨⟨jobInv_lastResult _, by decide, _, rfl⟩, jobInv_finished _, by decide, _, rfl⟩
theorem witness_ReadInTheNextCycleSeesTheWrite_dim :
    let c := CycleIn.wr .height 0x10002#32
    let c' := CycleIn.rd .height
    (idle [c, c']).block.busy = false ∧ c.rst = false ∧ c'.rst = false ∧
    portInstr c = some (.regWrite .height 0x10002#32) ∧ portInstr c' = some (.regRead .height 0#32) ∧
    ∃ t u, step (idle [c, c']) = .next t ∧ step t = .next u :=
  ⟨by decide, by decide, by decide, by decide, by decide, _, _, rfl, rfl⟩
theorem witness_ReadInTheNextCycleSeesTheWrite_ctrl :
    let c := CycleIn.wr .ctrl 0x3#32
    let c' := CycleIn.rd .ctrl
    (idle [c, c']).block.busy = false ∧ portInstr c = some (.regWrite .ctrl 0x3#32) ∧
    portInstr c' = some (.regRead .ctrl 0#32) ∧ ∃ t u, step (idle [c, c']) = .next t ∧ step t = .next u :=
  ⟨by decide, by decide, by decide, _, _, rfl, rfl⟩
theorem witness_ReadInTheNextCycleSeesTheWrite_start :
    let c := CycleIn.wr .ctrl 0x7#32
    (idle [c, CycleIn.rd .ctrl]).block.busy = false ∧ portInstr c = some (.start 0x7#32) ∧
    (∃ t u, step (idle [c, CycleIn.rd .ctrl]) = .next t ∧ step t = .next u) ∧
    ∃ t u, step (idle [c, CycleIn.poll]) = .next t ∧ step t = .next u :=
  ⟨by decide, by decide, ⟨_, _, rfl, rfl⟩, _, _, rfl, rfl⟩

/-! Runs. -/

/-- Two pairs are missing and one slot of B is offered. -/
theorem witness_ShortInputWaitsForEver :
    let s := started [served, CycleIn.nop.withS 0#16]
    JobInv s ∧ s.block.busy = true ∧ (∀ c ∈ s.program, c.rst = false) ∧
    s.program.countP CycleIn.bValid < s.block.remain.toNat :=
  ⟨jobInv_started _, by decide, by decide, by decide⟩
theorem witness_ServedCycleMakesProgress :
    (JobInv (started [served]) ∧ (started [served]).block.busy = true ∧ (started [served]).input.offersAndTakes = true ∧
      (started [served]).block.remain ≠ 0#33 ∧ ∃ t, step (started [served]) = .next t) ∧
    (lastResult [served]).input.offersAndTakes = true ∧ (lastResult [served]).block.remain = 0#33 ∧
      ∃ t, step (lastResult [served]) = .next t :=
  ⟨⟨jobInv_started _, by decide, by decide, by decide, _, rfl⟩, by decide, by decide, _, rfl⟩
/-- Stalls between the served cycles do no harm. -/
theorem witness_ServedJobCompletes :
    let s := started [served, CycleIn.nop, served, CycleIn.nop, served]
    JobInv s ∧ s.block.busy = true ∧ (∀ c ∈ s.nextInputs 5, c.rst = false) ∧
    s.block.workLeft ≤ (s.nextInputs 5).countP CycleIn.offersAndTakes :=
  ⟨jobInv_started _, by decide, by decide, by decide⟩
theorem witness_UnstalledJobTakesNPlusTwoCycles :
    let s := finished (CycleIn.startGen :: [served] ++ CycleIn.nop.withR :: [])
    JobInv s ∧ s.block.busy = false ∧ portInstr CycleIn.startGen = some (.start 5#32) ∧
    (5#32).getLsbD 0 ≠ (5#32).getLsbD 1 ∧ 1 ≤ [served].length ∧
    [served].length = frameCount s.block.width s.block.height ∧ (∀ c ∈ [served], c.offersAndTakes = true) ∧
    CycleIn.startGen.rst = false ∧ CycleIn.nop.withR.rst = false ∧ CycleIn.nop.withR.rReady = true :=
  ⟨jobInv_finished _, by decide, by decide, by decide, by decide, by decide, by decide, by decide, by decide, by decide⟩
/-- Two cycles of a job: a fire, then a stall. -/
theorem two_cycles_of_a_job : ∃ t u, step (started [served, CycleIn.nop]) = .next t ∧ step t = .next u ∧
    (t.block.busy = true ∧ t.input.rst = false) ∧
    regRead (started [served, CycleIn.nop]).block .remainHi = regRead u.block .remainHi :=
  ⟨_, _, rfl, rfl, by decide, by decide⟩

/-- HI, LO and HI read in three consecutive cycles of a job that fires meanwhile. -/
theorem witness_TornReadOfRemainIsDetected :
    (∀ i, i < 1 + 1 → ∀ u, reaches i (started [served, CycleIn.nop]) u → u.block.busy = true ∧ u.input.rst = false) ∧
    ∃ t u, reaches 1 (started [served, CycleIn.nop]) t ∧ reaches 1 t u ∧
      regRead (started [served, CycleIn.nop]).block .remainHi = regRead u.block .remainHi := by
  obtain ⟨t, u, ht, hu, hb, he⟩ := two_cycles_of_a_job
  refine ⟨fun i hi v hv => ?_, t, u, reaches_one ht, reaches_one hu, he⟩
  obtain rfl | rfl : i = 0 ∨ i = 1 := by omega
  · rw [reaches_zero] at hv
    subst hv
    decide
  · rw [reaches_succ ht, reaches_zero] at hv
    subst hv
    exact hb

theorem witness_FrameGoesThroughEndToEnd :
    let file : Memory := [(0, 0x64#8), (1, 0xFC#8)]
    let s := finished (CycleIn.startRec :: offerFrame file file 1)
    JobInv s ∧ s.block.busy = false ∧ frameCount s.block.width s.block.height = 1 ∧ holdsFrame file 1 ∧
    CycleIn.startRec.rst = false ∧ portInstr CycleIn.startRec = some (.start 6#32) ∧ (6#32).getLsbD 0 ≠ (6#32).getLsbD 1 :=
  ⟨jobInv_finished _, by decide, by decide, fun i hi => by
    have : i = 0 := by omega
    subst this
    decide, by decide, by decide, by decide⟩
theorem witness_WholeFrameRoundTrip :
    let file : Memory := [(0, 0x64#8), (1, 0xFC#8)]
    let s := finished (CycleIn.startGen :: offerFrame file file 1)
    JobInv s ∧ s.block.busy = false ∧ frameCount s.block.width s.block.height = 1 ∧ holdsFrame file 1 :=
  ⟨jobInv_finished _, by decide, by decide, fun i hi => by
    have : i = 0 := by omega
    subst this
    decide⟩

end Sys2Proof.Tests
end

section
/-! Host memory over several bytes (20_memory.md R43): what MemWrite leaves unchanged and what MemRead finds after it. -/

namespace Sys2Proof.Machine

/-- MemRead's next byte, said without its match. -/
theorem memRead_succ {m : Memory} {a n v : Nat} {b : Byte} (hb : Memory.read m a = some b)
    (hv : memRead m (a + 1) n = some v) : memRead m a (n + 1) = some (b.toNat + 256 * v) := by
  simp only [memRead, hb, hv]

theorem read_memWrite_outside (n : Nat) : ∀ (m : Memory) (a v : Nat) {x : Nat}, x < a ∨ a + n ≤ x →
    Memory.read (memWrite m a n v) x = Memory.read m x := by
  induction n with
  | zero => intro m a v x _; rfl
  | succ n ih =>
    intro m a v x hx
    calc Memory.read (memWrite m a (n + 1) v) x
        = Memory.read (Memory.write m a (BitVec.ofNat 8 v)) x := ih _ (a + 1) (v / 256) (by omega)
      _ = Memory.read m x := Memory.read_write_other m _ (by omega)

/-- The bytes above the first never touch it, so MemWrite leaves the low byte of the value at its own address. -/
theorem read_memWrite_first (m : Memory) (a n v : Nat) :
    Memory.read (memWrite m a (n + 1) v) a = some (BitVec.ofNat 8 v) :=
  (read_memWrite_outside n _ (a + 1) (v / 256) (by omega)).trans (Memory.read_write_same m a _)

theorem memRead_memWrite (n : Nat) : ∀ (m : Memory) (a v : Nat),
    memRead (memWrite m a n v) a n = some (v % 256 ^ n) := by
  induction n with
  | zero => intro m a v; simp [memRead, Nat.mod_one]
  | succ n ih =>
    intro m a v
    have hrest : memRead (memWrite m a (n + 1) v) (a + 1) n = some (v / 256 % 256 ^ n) := ih _ (a + 1) (v / 256)
    have hmod : v % 256 ^ (n + 1) = v % 256 + 256 * (v / 256 % 256 ^ n) := by rw [pow_succ', Nat.mod_mul]
    rw [memRead_succ (read_memWrite_first m a n v) hrest, hmod, BitVec.toNat_ofNat]

/-- Settles O18, by induction on the width: the frame first, then the value byte by byte. -/
theorem memReadAfterMemWrite : Obligations.MemReadAfterMemWrite := fun m a n v =>
  ⟨memRead_memWrite n m a v, fun _ hx => read_memWrite_outside n m a v hx⟩

end Sys2Proof.Machine
end

section
/-! The register numbering (10_state.md R23) and the port window (00_scope.md R9). -/

namespace Sys2Proof

@[simp] theorem Reg.ofIndex_index (r : Reg) : Reg.ofIndex r.index = r := by
  cases r <;> rfl

@[simp] theorem Reg.index_ofIndex (i : RegIndex) : (Reg.ofIndex i).index = i := by
  revert i; decide

theorem Reg.ofIndex_eq_iff {i : RegIndex} {r : Reg} : Reg.ofIndex i = r ↔ i = r.index :=
  ⟨fun h => by rw [← h, Reg.index_ofIndex], fun h => by rw [h, Reg.ofIndex_index]⟩

end Sys2Proof

namespace Sys2Proof.Machine

/-- Inside the window the word's offset is below 8, so it is the register's whole index. -/
theorem portReg_eq_some_iff {codecBase a : Nat} {r : Reg} :
    portReg codecBase a = some r ↔ a = codecBase + r.index.toNat := by
  have hr : r.index.toNat < 8 := r.index.isLt
  unfold portReg
  split
  next hin =>
    rw [Option.some.injEq, Reg.ofIndex_eq_iff, ← BitVec.toNat_inj, BitVec.toNat_ofNat]
    omega
  next hout =>
    have hne : a ≠ codecBase + r.index.toNat := by omega
    simp [hne]

/-- Settles O7: the offset in the window is the index, and index and register determine each other. -/
theorem portWindowHoldsEightRegisters : Obligations.PortWindowHoldsEightRegisters := fun _ _ _ => portReg_eq_some_iff

end Sys2Proof.Machine
end

section
/-! The register commands (42_register_access.md R106 to R111): a decoded one is well-formed, and what each leaves unchanged. -/

namespace Sys2Proof

/-- A write to CTRL with the START bit decodes as START (30_encoding.md R64), so no decoded command is ill-formed. -/
theorem decodeRegport_wf (w : Transaction) : (decodeRegport w).wf = true := by
  unfold decodeRegport
  split
  · rfl
  split
  next hstart => exact hstart.2
  next hwrite =>
    have hctrl : Reg.ofIndex (Transaction.addr w) = .ctrl ↔ Transaction.addr w = 0#3 := Reg.ofIndex_eq_iff
    simpa [Instr.wf, hctrl, imp_iff_not_or] using hwrite

end Sys2Proof

namespace Sys2Proof.Machine

theorem wf_of_portInstr {c : CycleIn} {i : Instr} (h : portInstr c = some i) : i.wf = true := by
  unfold portInstr at h
  split at h
  · obtain rfl : decodeRegport c.transaction = i := Option.some.inj h
    exact decodeRegport_wf _
  · exact nomatch h

/-- A well-formed REG_WRITE as one equation: each of CTRL, WIDTH and HEIGHT is written by its own index only. -/
theorem State.writeReg_of_wf {reg : Reg} {d : Word} (h : (Instr.regWrite reg d).wf = true) (s : State) :
    s.writeReg reg d = { s with block := { s.block with
      genBit := if reg = .ctrl then dataGen d else s.block.genBit
      recBit := if reg = .ctrl then dataRec d else s.block.recBit
      width := if reg = .width then dataDim d else s.block.width
      height := if reg = .height then dataDim d else s.block.height } } := by
  cases reg with
  | ctrl =>
    have hd : isStartData d = false := by simpa [Instr.wf] using h
    simp [State.writeReg, hd, State.storeMode]
  | width | height | status | countLo | countHi | remainLo | remainHi => rfl

/-- Settles O25, command by command: a read's and a write's equation, and the two outcomes of START. -/
theorem registerCommandFrame : Obligations.RegisterCommandFrame := by
  refine ⟨fun reg d s t h => ?_, fun reg d s t hwf h => ?_, fun d s t h => ?_⟩
  · obtain rfl := Host.Outcome.next.inj ((exec_regRead reg d s).symm.trans h)
    exact ⟨rfl, fun _ => rfl, rfl, rfl⟩
  · obtain rfl := Host.Outcome.next.inj ((exec_regWrite reg d s).symm.trans h)
    split
    · exact ⟨rfl, fun _ => ⟨rfl, rfl⟩, fun _ => rfl, fun _ => rfl, fun _ => rfl, rfl, rfl⟩
    · rw [State.writeReg_of_wf hwf]
      exact ⟨rfl, fun hne => ⟨if_neg hne, if_neg hne⟩, fun hne => if_neg hne, fun hne => if_neg hne, fun _ => rfl,
        rfl, rfl⟩
  · obtain rfl := Host.Outcome.next.inj ((exec_start d s).symm.trans h)
    split
    · exact ⟨rfl, rfl, rfl, rfl, fun _ => ⟨rfl, rfl, rfl⟩, fun _ => rfl, rfl, rfl⟩
    · by_cases hd : d.getLsbD 0 = d.getLsbD 1
      · rw [State.startJob_of_illegal hd]
        exact ⟨rfl, rfl, rfl, rfl, fun _ => ⟨rfl, rfl, rfl⟩, fun _ => rfl, rfl, rfl⟩
      · rw [State.startJob_of_legal hd]
        exact ⟨rfl, rfl, rfl, rfl, fun he => absurd he hd, fun _ => rfl, rfl, rfl⟩

end Sys2Proof.Machine
end

section
/-! What a cycle does, by whether it resets, is idle or runs a job, and the status bits it leaves (10_state.md R25, R33). -/

namespace Sys2Proof.Machine

variable {s t : State}

/-- A cycle while BUSY = 0 with an empty result buffer: an accepted START, a rejected START, or a command that changes at
most CTRL, WIDTH, HEIGHT and the outputs. -/
theorem step_idle_cases (hr : s.input.rst = false) (hb : s.block.busy = false) (hf : s.block.outFull = false)
    (h : step s = .next t) :
    (∃ d, portInstr s.input = some (.start d) ∧ d.getLsbD 0 ≠ d.getLsbD 1 ∧
      t = (s.beginCycle.storeMode d).acceptStart.advance) ∨
    (∃ d, portInstr s.input = some (.start d) ∧ d.getLsbD 0 = d.getLsbD 1 ∧
      t = (s.beginCycle.storeMode d).raiseModeError.advance) ∨
    ((∀ d, portInstr s.input ≠ some (.start d)) ∧ ∃ g r w v p, t =
      { s with
        block := { s.block with genBit := g, recBit := r, width := w, height := v }
        ports := p
        program := s.program.tail }) := by
  rw [step_idle hr hb, drain_idle_empty hf] at h
  obtain rfl := Host.Outcome.next.inj h
  match e : portInstr s.input with
  | some (.start d) =>
    by_cases hd : d.getLsbD 0 = d.getLsbD 1
    · exact .inr (.inl ⟨d, rfl, hd, congrArg State.advance (State.startJob_of_illegal hd _)⟩)
    · exact .inl ⟨d, rfl, hd, congrArg State.advance (State.startJob_of_legal hd _)⟩
  | some (.regWrite reg d) =>
    dsimp only
    rw [State.writeReg_of_wf (wf_of_portInstr e)]
    exact .inr (.inr ⟨fun _ => nofun, _, _, _, _, _, rfl⟩)
  | none | some (.regRead reg d) | some .diff | some .recon =>
    exact .inr (.inr ⟨fun _ => nofun, _, _, _, _, _, rfl⟩)

/-- The end of a running job's cycle: BUSY falls exactly when nothing is left, DONE rises with it, ERR_MODE stays. -/
theorem step_busy_status (hr : s.input.rst = false) (hb : s.block.busy = true) (h : step s = .next t) :
    (t.block.busy = false ↔ t.block.remain = 0#33 ∧ t.block.outFull = false) ∧
    (t.block.done = true ↔ t.block.busy = false ∨ s.block.done = true) ∧
    t.block.errMode = s.block.errMode := by
  rw [step_busy_eq hr hb rfl rfl rfl rfl rfl] at h
  obtain rfl := Host.Outcome.next.inj h
  exact ⟨by simp, by simp only [Bool.or_eq_true, Bool.not_eq_false'], rfl⟩

theorem not_acceptsStart (h : ∀ d, portInstr s.input = some (.start d) → d.getLsbD 0 = d.getLsbD 1) :
    ¬ acceptsStart s :=
  fun ⟨_, _, d, hp, hd⟩ => hd (h d hp)

/-- Settles O32: the reset block is written out in the model. -/
theorem resetValues : Obligations.ResetValues := rfl

/-- Settles O37: a reset empties the block, a job ends only with nothing left, and an idle cycle leaves REMAIN and OUT_FULL
alone unless it accepts a START, which sets BUSY with REMAIN. -/
theorem idleMeansNothingLeft : Obligations.IdleMeansNothingLeft := by
  refine ⟨⟨rfl, rfl, rfl⟩, fun s t hs h => ⟨fun ht => ?_, fun hb => ?_⟩⟩
  · cases hr : s.input.rst with
    | true =>
      obtain rfl := Host.Outcome.next.inj ((step_reset hr).symm.trans h)
      exact ⟨rfl, rfl⟩
    | false =>
      cases hb : s.block.busy with
      | true => exact (step_busy_status hr hb h).1.1 ht
      | false =>
        obtain ⟨hrem, hfull⟩ := hs hb
        obtain ⟨d, -, -, rfl⟩ | ⟨d, -, -, rfl⟩ | ⟨-, g, r, w, v, p, rfl⟩ := step_idle_cases hr hb hfull h
        · exact ⟨by simpa using ht, hfull⟩
        · exact ⟨hrem, hfull⟩
        · exact ⟨hrem, hfull⟩
  · simp [fires, drains, hb, (hs hb).2]

/-- Settles O45: a reset clears the three bits, a running job's cycle sets them by what is left, and an idle cycle by the
outcome of its START, if it has one. -/
theorem statusBitsChangeOnlyAtTheirEvents : Obligations.StatusBitsChangeOnlyAtTheirEvents := by
  intro s t hs h
  cases hr : s.input.rst with
  | true =>
    obtain rfl := Host.Outcome.next.inj ((step_reset hr).symm.trans h)
    simp [acceptsStart, hr, Block.reset]
  | false =>
    cases hb : s.block.busy with
    | true =>
      obtain ⟨hbusy, hdone, herr⟩ := step_busy_status hr hb h
      obtain ⟨hd, he⟩ := hs.running_flags hb
      simp [acceptsStart, hr, hb, hbusy, hdone, herr, hd, he]
    | false =>
      obtain ⟨d, hp, hd, rfl⟩ | ⟨d, hp, hd, rfl⟩ | ⟨hp, g, r, w, v, p, rfl⟩ :=
        step_idle_cases hr hb (hs.idleEmpty hb).2 h
      · have hacc : acceptsStart s := ⟨hr, hb, d, hp, hd⟩
        simp [hacc, hp, hb, frameCountWord_eq_zero]
      · have hacc : ¬ acceptsStart s := not_acceptsStart fun d' hp' => by
          obtain rfl : d = d' := by simpa [hp] using hp'
          exact hd
        simp [hacc, hp, hb]
      · have hacc : ¬ acceptsStart s := not_acceptsStart fun d hd => absurd hd (hp d)
        simp [hacc, hp, hb]

end Sys2Proof.Machine
end

section
/-! The invariant of a run: at reset, in an idle cycle, and through the phases of a running job's cycle. -/

namespace Sys2Proof.Machine

/-! One sample of the output file (20_memory.md R43). -/

theorem memRead_congr {m m' : Memory} (n : Nat) : ∀ {a : Nat},
    (∀ x, a ≤ x → x < a + n → Memory.read m x = Memory.read m' x) → memRead m a n = memRead m' a n := by
  induction n with
  | zero => intro a _; rfl
  | succ n ih =>
    intro a h
    rw [memRead, memRead, h a (by omega) (by omega), ih fun x hx hx' => h x (by omega) (by omega)]

theorem readSample_writeSample_same (m : Memory) (i : Nat) (v : Slot) : readSample (writeSample m i v) i = some v := by
  have hv : v.toNat % 256 ^ 2 = v.toNat := Nat.mod_eq_of_lt v.isLt
  rw [readSample, writeSample, memRead_memWrite, hv, Option.map_some, BitVec.ofNat_toNat, BitVec.setWidth_eq]

theorem readSample_writeSample_other (m : Memory) {i k : Nat} (v : Slot) (h : k ≠ i) :
    readSample (writeSample m i v) k = readSample m k := by
  have hbytes := memRead_congr (m := writeSample m i v) (m' := m) 2 (a := sampleAddr k) fun x hx hx' =>
    read_memWrite_outside 2 m (sampleAddr i) v.toNat (by simp only [sampleAddr] at *; omega)
  rw [readSample, hbytes, readSample]

variable {s t : State}

/-! While idle. -/

theorem jobInv_resetCycle (hm : Memory.wf s.mem = true) : JobInv s.resetCycle where
  idleEmpty _ := ⟨rfl, rfl⟩
  busyWork h := nomatch h
  busyMode h := nomatch h
  busyCount h := nomatch h
  doneIdle h := nomatch h
  errIdle h := nomatch h
  acceptedB := rfl
  acceptedS := rfl
  delivered := rfl
  results h := nomatch h
  buffer _ h := nomatch h
  memWf := hm

/-- Settles O38: a reset cycle makes the invariant, and the reset state is its own reset cycle. -/
theorem jobInvHoldsAtReset : Obligations.JobInvHoldsAtReset := jobInv_resetCycle (s := State.reset) rfl

/-- An idle state's invariant speaks of COUNT, REMAIN and OUT_FULL, and of DONE and ERR_MODE against each other. -/
theorem JobInv.with_idle_block (h : JobInv s) (hb : s.block.busy = false) (b : Block) (hbusy : b.busy = false)
    (hcount : b.count = s.block.count) (hremain : b.remain = s.block.remain) (hfull : b.outFull = s.block.outFull)
    (herr : b.errMode = true → b.done = false) : JobInv { s with block := b } where
  idleEmpty _ := by simpa [hremain, hfull] using h.idleEmpty hb
  busyWork e := absurd e (by simp [hbusy])
  busyMode e := absurd e (by simp [hbusy])
  busyCount e := absurd e (by simp [hbusy])
  doneIdle _ := hbusy
  errIdle e := ⟨hbusy, herr e⟩
  acceptedB := by simpa [hremain, hcount] using h.acceptedB
  acceptedS := h.acceptedS
  delivered := by simpa [hfull] using h.delivered
  results e := absurd e (by simp [hbusy])
  buffer := h.buffer
  memWf := h.memWf

/-- The two mode bits of a legal MODE (30_encoding.md R60). -/
theorem Block.mode_legal_iff (b : Block) : b.mode = 0b01#2 ∨ b.mode = 0b10#2 ↔ b.genBit ≠ b.recBit := by
  cases hg : b.genBit <;> cases hr : b.recBit <;> simp [Block.mode, hg, hr]

/-- An accepted START begins a job with no pair accepted and no result delivered; an empty frame is done at once. -/
theorem jobInv_acceptStart (hfull : s.block.outFull = false) (hmode : s.block.genBit ≠ s.block.recBit)
    (hm : Memory.wf s.mem = true) : JobInv s.acceptStart where
  idleEmpty e := ⟨by simpa using e, hfull⟩
  busyWork e := .inl (by simpa using e)
  busyMode _ := (Block.mode_legal_iff _).2 hmode
  busyCount _ := frameCountWord_toNat _ _
  doneIdle e := by simpa using e
  errIdle e := nomatch e
  acceptedB := Nat.zero_add _
  acceptedS := rfl
  delivered := by simp [hfull]
  results _ := by simp [Block.pending, hfull]
  buffer _ e := nomatch e
  memWf := hm

theorem step_idle_keeps_jobInv (hs : JobInv s) (hr : s.input.rst = false) (hb : s.block.busy = false)
    (h : step s = .next t) : JobInv t := by
  have hfull := (hs.idleEmpty hb).2
  obtain ⟨d, -, hd, rfl⟩ | ⟨d, -, -, rfl⟩ | ⟨-, g, r, w, v, p, rfl⟩ := step_idle_cases hr hb hfull h
  · exact (jobInv_acceptStart (s := s.beginCycle.storeMode d) hfull hd hs.memWf).advance
  · exact (hs.beginCycle.with_idle_block hb (s.beginCycle.storeMode d).raiseModeError.block hb rfl rfl rfl
      fun _ => rfl).advance
  · exact (hs.with_idle_block hb { s.block with genBit := g, recBit := r, width := w, height := v } hb rfl rfl rfl
      fun e => (hs.errIdle e).2).with_host s.program.tail p

/-! While a job runs. -/

/-- The invariant between the phases of a running job's cycle: the job's part of `JobInv`, where nothing may be left to do
because completion has not looked yet. -/
structure RunningInv (s : State) : Prop where
  busy : s.block.busy = true
  mode : s.block.mode = 0b01#2 ∨ s.block.mode = 0b10#2
  count : s.block.count.toNat = frameCount s.block.width s.block.height
  errMode : s.block.errMode = false
  done : s.block.done = false
  acceptedB : s.bSeq.length + s.block.remain.toNat = s.block.count.toNat
  acceptedS : s.sSeq.length = s.bSeq.length
  delivered : s.rSeq.length + s.block.outFull.toNat = s.bSeq.length
  results : s.rSeq ++ s.block.pending = List.zipWith (pairResult s.block.mode) s.bSeq s.sSeq
  buffer : ∀ k, k < s.rSeq.length → readSample s.mem k = s.rSeq[k]?
  memWf : Memory.wf s.mem = true

theorem JobInv.running (h : JobInv s) (hb : s.block.busy = true) : RunningInv s where
  busy := hb
  mode := h.busyMode hb
  count := h.busyCount hb
  errMode := (h.running_flags hb).2
  done := (h.running_flags hb).1
  acceptedB := h.acceptedB
  acceptedS := h.acceptedS
  delivered := h.delivered
  results := h.results hb
  buffer := h.buffer
  memWf := h.memWf

theorem RunningInv.with_ports (h : RunningInv s) (p : PortsOut) : RunningInv { s with ports := p } :=
  { h with }

/-- A drain moves the waiting result to the end of stream R and into the next sample of the output file. -/
theorem RunningInv.drain (h : RunningInv s) : RunningInv s.drain := by
  cases hd : drains s.block s.input with
  | false => rwa [State.drain_of_not hd]
  | true =>
    obtain ⟨⟨-, hfull⟩, -⟩ : (s.input.rst = false ∧ s.block.outFull = true) ∧ s.input.rReady = true := by
      simpa [drains] using hd
    rw [State.drain_of_drains hd]
    exact
      { h with
        delivered := by simpa [hfull] using h.delivered
        results := by simpa [Block.pending, Block.mode, hfull] using h.results
        buffer := fun k hk => by
          by_cases hlast : k = s.rSeq.length
          · simp [hlast, readSample_writeSample_same]
          · have hk' : k < s.rSeq.length := by
              rw [List.length_append, List.length_singleton] at hk
              omega
            rw [readSample_writeSample_other _ _ hlast, List.getElem?_append_left hk', h.buffer k hk']
        memWf := writeSample_wf _ _ _ h.memWf }

/-- A fire into an empty result buffer appends a pair to the inputs and its result to the results. -/
theorem RunningInv.fire (h : RunningInv s) (hrem : s.block.remain ≠ 0#33) (hfull : s.block.outFull = false) {r : Sample}
    (hres : resultSlot r = pairResult s.block.mode s.input.bData s.input.sData) : RunningInv (s.fire r) :=
  { h with
    acceptedB := by
      have hsub := remain_sub_one hrem
      have hacc := h.acceptedB
      simp only [State.fire_block, State.fire_bSeq, List.length_append, List.length_singleton]
      omega
    acceptedS := by simp [h.acceptedS]
    delivered := by simpa [hfull] using h.delivered
    results := by
      have hprev : s.rSeq = List.zipWith (pairResult s.block.mode) s.bSeq s.sSeq := by
        simpa [Block.pending, hfull] using h.results
      simp [Block.pending, Block.mode, hres, List.zipWith_append h.acceptedS.symm, hprev] }

/-- The fire phase keeps the invariant if a fire finds the result buffer empty. -/
theorem RunningInv.fireIf (h : RunningInv s) (hfull : fires s.block s.input = true → s.block.outFull = false) {r : Sample}
    (hres : resultSlot r = pairResult s.block.mode s.input.bData s.input.sData) : RunningInv (s.fireIf r) := by
  cases hf : fires s.block s.input with
  | false => rwa [State.fireIf_of_not hf]
  | true =>
    obtain ⟨-, -, hrem, -⟩ := (fires_iff _ _).1 hf
    rw [State.fireIf_of_fires hf]
    exact h.fire hrem (hfull hf) hres

/-- Completion looks at what is left, which settles BUSY. -/
theorem RunningInv.complete (h : RunningInv s) : JobInv (s.complete true) := by
  cases hd : s.block.drained with
  | true =>
    obtain ⟨hrem, hfull⟩ : s.block.remain = 0#33 ∧ s.block.outFull = false := by simpa [Block.drained] using hd
    rw [State.complete_of_drained hd]
    exact
      { h with
        idleEmpty := fun _ => ⟨hrem, hfull⟩
        busyWork := nofun
        busyMode := nofun
        busyCount := nofun
        doneIdle := fun _ => rfl
        errIdle := fun e => absurd e (by simp [h.errMode])
        results := nofun }
  | false =>
    rw [State.complete_of_not hd]
    exact
      { h with
        idleEmpty := fun e => absurd h.busy (by simp [e])
        busyWork := fun _ => by simpa [Block.drained, Decidable.imp_iff_not_or] using hd
        busyMode := fun _ => h.mode
        busyCount := fun _ => h.count
        doneIdle := fun e => absurd e (by simp [h.done])
        errIdle := fun e => absurd e (by simp [h.errMode])
        results := fun _ => h.results }

/-- After the drain phase, a fire finds the result buffer empty (41_stream_transform.md R93, R96). -/
theorem outFull_false_of_fires_after_drain {b : Block} {c : CycleIn}
    (h : fires { b with outFull := b.outFull && !drains b c } c = true) : (b.outFull && !drains b c) = false := by
  obtain ⟨hrst, -, -, -, -, hfull | hready⟩ := (fires_iff _ _).1 h
  · exact hfull
  · simp [drains, hrst, hready]

theorem step_busy_keeps_jobInv (hs : JobInv s) (hr : s.input.rst = false) (hb : s.block.busy = true)
    (h : step s = .next t) : JobInv t := by
  obtain rfl := Host.Outcome.next.inj ((step_busy hr hb).symm.trans h)
  have hdrained := (hs.beginCycle.running hb).drain
  have hinput : s.beginCycle.drain.input = s.input := State.drain_input
  refine ((hdrained.with_ports _).fireIf (fun hf => ?_) ?_).complete.advance
  · change fires s.beginCycle.drain.block s.beginCycle.drain.input = true at hf
    rw [beginCycle_drain_block, hinput] at hf
    exact congrArg Block.outFull beginCycle_drain_block |>.trans (outFull_false_of_fires_after_drain hf)
  · change _ = pairResult s.beginCycle.drain.block.mode s.beginCycle.drain.input.bData s.beginCycle.drain.input.sData
    rw [beginCycle_drain_block, hinput]
    exact resultSlot_fireResult s.block s.input (hs.busyMode hb)

/-- Settles O39, by the three kinds of cycle. -/
theorem stepKeepsJobInv : Obligations.StepKeepsJobInv := by
  intro s t hs h
  cases hr : s.input.rst with
  | true =>
    obtain rfl := Host.Outcome.next.inj ((step_reset hr).symm.trans h)
    exact jobInv_resetCycle hs.memWf
  | false =>
    cases hb : s.block.busy with
    | true => exact step_busy_keeps_jobInv hs hr hb h
    | false => exact step_idle_keeps_jobInv hs hr hb h

end Sys2Proof.Machine
end

section
/-! Bits [15:10] of an offered slot (10_state.md R38, 40_sample_ops.md R81): the slots enter a cycle through a fire only,
and there through the low 10 bits. -/

namespace Sys2Proof.Machine

/-- The cycle with other slots on B and S; what is offered or not stays. -/
def CycleIn.withSlots (c : CycleIn) (b d : Slot) : CycleIn := { c with bData := b, sData := d }

@[simp] theorem portInstr_withSlots (c : CycleIn) (b d : Slot) : portInstr (c.withSlots b d) = portInstr c := rfl

theorem sampleValue_congr {x y : Slot} (h : x.extractLsb' 0 10 = y.extractLsb' 0 10) : sampleValue x = sampleValue y :=
  congrArg BitVec.toNat h

/-- Slots with the same low 10 bits give the same result. -/
theorem fireResult_withSlots (k : Block) {c : CycleIn} {b d : Slot} (hB : b.extractLsb' 0 10 = c.bData.extractLsb' 0 10)
    (hD : d.extractLsb' 0 10 = c.sData.extractLsb' 0 10) :
    fireResult k (c.withSlots b d) = fireResult k c := by
  simp only [fireResult, CycleIn.withSlots, diff10, recon10, sampleValue_congr hB, sampleValue_congr hD]

/-! Replacing the cycle's inputs commutes with what an idle cycle does. -/

section Inputs

variable (s : State) (c : CycleIn)

@[simp] theorem State.withInput_block : (s.withInput c).block = s.block := rfl
@[simp] theorem State.withInput_input : (s.withInput c).input = c := rfl

theorem State.withInput_drain (h : drains s.block c = drains s.block s.input) :
    (s.withInput c).drain = s.drain.withInput c := by
  cases hd : drains s.block s.input with
  | true => rw [State.drain_of_drains hd, State.drain_of_drains (h.trans hd)]; rfl
  | false => rw [State.drain_of_not hd, State.drain_of_not (h.trans hd)]

theorem State.withInput_startJob (d : Word) : (s.withInput c).startJob d = (s.startJob d).withInput c := by
  unfold State.startJob
  split <;> rfl

end Inputs

variable {s : State} {c : CycleIn} {b d : Slot}

/-- An idle cycle reads no slot: with other slots offered it is the same cycle. -/
theorem step_idle_withSlots (hr : c.rst = false) (hb : s.block.busy = false) :
    step (s.withInput (c.withSlots b d)) = step (s.withInput c) := by
  have hdrain : (s.withInput (c.withSlots b d)).beginCycle.drain =
      (s.withInput c).beginCycle.drain.withInput (c.withSlots b d) :=
    (s.withInput c).beginCycle.withInput_drain (c.withSlots b d) rfl
  rw [step_idle (s := s.withInput c) hr hb, step_idle (s := s.withInput (c.withSlots b d)) hr hb, hdrain]
  simp only [State.withInput_input, portInstr_withSlots]
  match e : portInstr c with
  | some (.start w) => simp only [State.withInput_startJob]; rfl
  | some (.regWrite reg w) => simp only [State.writeReg_of_wf (wf_of_portInstr e)]; rfl
  | none | some (.regRead reg w) | some .diff | some .recon => rfl

/-- Settles O31: a reset and an idle cycle read no slot, and a running job's cycle reads the two slots for its result and
for the records of streams B and S, which the statement leaves out. -/
theorem stepIgnoresUpperSlotBits : Obligations.StepIgnoresUpperSlotBits := by
  intro s t t' b d hB hD h h'
  change step (s.withInput (s.input.withSlots b d)) = .next t' at h'
  generalize s.input = c at hB hD h h'
  cases hr : c.rst with
  | true =>
    obtain rfl := Host.Outcome.next.inj ((step_reset (s := s.withInput c) hr).symm.trans h)
    obtain rfl := Host.Outcome.next.inj ((step_reset (s := s.withInput (c.withSlots b d)) hr).symm.trans h')
    exact ⟨rfl, rfl, rfl, rfl⟩
  | false =>
    cases hb : s.block.busy with
    | true =>
      rw [step_busy_eq (s := s.withInput c) (f := fires s.block c) (d := drains s.block c) hr hb rfl rfl rfl rfl rfl] at h
      rw [step_busy_eq (s := s.withInput (c.withSlots b d)) (f := fires s.block c) (d := drains s.block c) hr hb
        rfl rfl rfl rfl rfl, State.withInput_input, State.withInput_block, fireResult_withSlots s.block hB hD] at h'
      obtain rfl := Host.Outcome.next.inj h
      obtain rfl := Host.Outcome.next.inj h'
      exact ⟨rfl, rfl, rfl, rfl⟩
    | false =>
      obtain rfl := Host.Outcome.next.inj (h.symm.trans ((step_idle_withSlots hr hb).symm.trans h'))
      exact ⟨rfl, rfl, rfl, rfl⟩

end Sys2Proof.Machine
end

section
/-! The planes of a frame (20_memory.md R44) and the two bytes of a sample (R43). -/

namespace Sys2Proof.Machine

theorem frameCount_eq (w h : Dim) : frameCount w h = lumaCount w h + 2 * chromaCount w h := rfl

theorem planeOf_eq_some_iff {w h : Dim} {i : Nat} {p : Plane} :
    planeOf w h i = some p ↔ planeStart w h p ≤ i ∧ i < planeStart w h p + planeSize w h p := by
  unfold planeOf
  cases p with
  | luma | chroma1 | chroma2 =>
    simp only [planeStart, planeSize]
    split_ifs <;> simp <;> omega

theorem planeOf_eq_none_iff {w h : Dim} {i : Nat} : planeOf w h i = none ↔ frameCount w h ≤ i := by
  rw [frameCount_eq, planeOf]
  split_ifs <;> simp <;> omega

/-- Settles O16: the planes' bounds are the branches of `planeOf`, in order. -/
theorem planesTileTheFrame : Obligations.PlanesTileTheFrame := fun w h i =>
  ⟨by rw [frameCount_eq]; simp only [planeSize]; omega, fun _ => planeOf_eq_some_iff, planeOf_eq_none_iff⟩

/-- The high byte of a sample is stored after the low one, at another offset. -/
theorem read_writeSample_low (m : Memory) (i : Nat) (v : Slot) :
    Memory.read (writeSample m i v) (2 * i) = some (v.extractLsb' 0 8) := by
  rw [writeSample_eq, Memory.read_write_other _ _ (by omega), Memory.read_write_same]
  rfl

theorem read_writeSample_high (m : Memory) (i : Nat) (v : Slot) :
    Memory.read (writeSample m i v) (2 * i + 1) = some (v.extractLsb' 8 8) := by
  have hshift : v.toNat / 256 = v.toNat >>> 8 := (Nat.shiftRight_eq_div_pow v.toNat 8).symm
  rw [writeSample_eq, Memory.read_write_same, hshift]
  rfl

theorem read_writeSample_other (m : Memory) {i a : Nat} (v : Slot) (hlow : a ≠ 2 * i) (hhigh : a ≠ 2 * i + 1) :
    Memory.read (writeSample m i v) a = Memory.read m a :=
  read_memWrite_outside 2 m (sampleAddr i) v.toNat (by simp only [sampleAddr]; omega)

theorem memRead_two {m : Memory} {a : Nat} {lo hi : Byte} (hlo : Memory.read m a = some lo)
    (hhi : Memory.read m (a + 1) = some hi) : memRead m a 2 = some (lo.toNat + 256 * hi.toNat) :=
  memRead_succ hlo (memRead_succ (v := 0) hhi rfl)

/-- Two bytes are a slot without loss. -/
theorem slot_of_bytes_toNat (lo hi : Byte) : (BitVec.ofNat 16 (lo.toNat + 256 * hi.toNat)).toNat =
    lo.toNat + 256 * hi.toNat := by
  have := lo.isLt
  have := hi.isLt
  rw [BitVec.toNat_ofNat]
  omega

/-- Settles O17: a read puts the bytes together as `memRead_succ` says, and a write is two byte stores. -/
theorem sampleBytesAreLittleEndian : Obligations.SampleBytesAreLittleEndian := by
  refine ⟨fun m a n b v hb hv => memRead_succ hb hv, fun m i lo hi hlo hhi => ?_, fun m i v => ?_⟩
  · have hread : memRead m (2 * i) 2 = some (lo.toNat + 256 * hi.toNat) := memRead_two hlo hhi
    exact ⟨hread, _, congrArg (Option.map (BitVec.ofNat 16)) hread, slot_of_bytes_toNat lo hi⟩
  · exact ⟨read_writeSample_low m i v, read_writeSample_high m i v, fun a => read_writeSample_other m v⟩

end Sys2Proof.Machine
end

section
/-! What a cycle does to the output file (20_memory.md R42), to the configuration of a running job (R56), and what a
register command does to the stream records (R41). -/

namespace Sys2Proof.Machine

variable {s t : State}

theorem State.drain_mem : s.drain.mem =
    if drains s.block s.input then writeSample s.mem s.rSeq.length (resultSlot s.block.outReg) else s.mem := by
  unfold State.drain
  split <;> rfl

theorem State.startJob_mem (d : Word) : (s.startJob d).mem = s.mem := by
  unfold State.startJob
  split <;> rfl

/-- In every cycle the output file is touched by the drain alone; a reset cycle has none. -/
theorem step_mem (h : step s = .next t) : t.mem = s.drain.mem := by
  cases hr : s.input.rst with
  | true =>
    obtain rfl := Host.Outcome.next.inj ((step_reset hr).symm.trans h)
    simp [State.drain_mem, drains, hr]
  | false =>
    cases hb : s.block.busy with
    | true =>
      obtain rfl := Host.Outcome.next.inj ((step_busy_eq hr hb rfl rfl rfl rfl rfl).symm.trans h)
      exact State.drain_mem.symm
    | false =>
      obtain rfl := Host.Outcome.next.inj ((step_idle hr hb).symm.trans h)
      have hbegin : s.beginCycle.drain.mem = s.drain.mem := by
        rw [State.drain_mem, State.drain_mem]; rfl
      match e : portInstr s.input with
      | some (.start d) => exact (State.startJob_mem d).trans hbegin
      | some (.regWrite reg d) => exact (congrArg State.mem (State.writeReg_of_wf (wf_of_portInstr e) _)).trans hbegin
      | none | some (.regRead reg d) | some .diff | some .recon => exact hbegin

/-- Settles O41: a cycle leaves the file its drain leaves, and a drain stores one sample. -/
theorem onlyADrainStores : Obligations.OnlyADrainStores := by
  intro s t h
  rw [step_mem h, State.drain_mem]
  refine ⟨fun hd => ?_, fun hd a => ?_⟩
  · rw [if_pos hd]
    exact ⟨⟨_, readSample_writeSample_same _ _ _, resultSlot_toNat _⟩, fun a => read_writeSample_other _ _⟩
  · rw [if_neg (by simp [hd])]

/-- Settles O44: a running job's cycle as one record has these elements from the state before. -/
theorem runningJobIsFrozen : Obligations.RunningJobIsFrozen := by
  intro s t hb hr h
  obtain rfl := Host.Outcome.next.inj ((step_busy_eq hr hb rfl rfl rfl rfl rfl).symm.trans h)
  exact ⟨rfl, rfl, rfl, rfl, rfl, rfl⟩

/-- The command asks for a job with this DATA: a START, or the ill-formed write that acts as one (log entry 11). -/
def asksForJob (i : Instr) (d : Word) : Prop := i = .start d ∨ i = .regWrite .ctrl d ∧ d.getLsbD 2 = true

theorem asksForJob_data_unique {i : Instr} {d d' : Word} (h : asksForJob i d) (h' : asksForJob i d') :
    d = d' := by
  obtain rfl | ⟨rfl, -⟩ := h
  · simpa [asksForJob] using h'.symm
  · obtain h' | ⟨h', -⟩ := h'
    · exact nomatch h'
    · injection h'

/-- What a register command does to the records: it asks for a job, or it keeps them. -/
theorem exec_command_cases {i : Instr} (h : exec i s = .next t) (hop : i ≠ .diff ∧ i ≠ .recon) :
    (∃ d, asksForJob i d ∧ t = if s.block.busy then s else s.startJob d) ∨
    ((∀ d, ¬ asksForJob i d) ∧ t.bSeq = s.bSeq ∧ t.sSeq = s.sSeq ∧ t.rSeq = s.rSeq) := by
  match i with
  | .diff => exact absurd rfl hop.1
  | .recon => exact absurd rfl hop.2
  | .regRead reg d =>
    obtain rfl := Host.Outcome.next.inj ((exec_regRead reg d s).symm.trans h)
    exact .inr ⟨fun d' => by simp [asksForJob], rfl, rfl, rfl⟩
  | .start d => exact .inl ⟨d, .inl rfl, (Host.Outcome.next.inj ((exec_start d s).symm.trans h)).symm⟩
  | .regWrite reg d =>
    obtain rfl := Host.Outcome.next.inj ((exec_regWrite reg d s).symm.trans h)
    cases hwf : (Instr.regWrite reg d).wf with
    | true =>
      refine .inr ⟨fun d' => ?_, ?_⟩
      · rintro (h' | ⟨h', hd⟩)
        · exact nomatch h'
        · obtain ⟨rfl, rfl⟩ := Instr.regWrite.inj h'
          exact absurd hd (by simpa [Instr.wf, isStartData] using hwf)
      · rw [State.writeReg_of_wf hwf]
        split <;> exact ⟨rfl, rfl, rfl⟩
    | false =>
      obtain ⟨rfl, hd⟩ : reg = .ctrl ∧ isStartData d = true := by simpa [Instr.wf] using hwf
      refine .inl ⟨d, .inr ⟨rfl, hd⟩, ?_⟩
      rw [State.writeReg, if_pos hd]

/-- Settles O24: only a command that asks for a job can touch the records, and START empties them when it accepts. -/
theorem streamSequencesRestartAtStart : Obligations.StreamSequencesRestartAtStart := by
  intro i s t h hop
  obtain ⟨d, hask, rfl⟩ | ⟨hask, hkept⟩ := exec_command_cases h hop
  · have haccepts : (s.block.busy = false ∧ ∃ d', asksForJob i d' ∧ d'.getLsbD 0 ≠ d'.getLsbD 1) ↔
        s.block.busy = false ∧ d.getLsbD 0 ≠ d.getLsbD 1 := by
      refine and_congr_right fun _ => ⟨fun ⟨d', hask', hd⟩ => ?_, fun hd => ⟨d, hask, hd⟩⟩
      rwa [asksForJob_data_unique hask hask']
    refine ⟨fun hacc => ?_, fun hacc => ?_⟩
    · obtain ⟨hb, hd⟩ := haccepts.1 hacc
      rw [hb, if_neg Bool.false_ne_true, State.startJob_of_legal hd]
      exact ⟨rfl, rfl, rfl⟩
    · split
      next => exact ⟨rfl, rfl, rfl⟩
      next hb =>
        have hd : d.getLsbD 0 = d.getLsbD 1 := by
          by_contra hd
          exact hacc (haccepts.2 ⟨by simpa using hb, hd⟩)
        rw [State.startJob_of_illegal hd]
        exact ⟨rfl, rfl, rfl⟩
  · exact ⟨fun ⟨_, d, hd, _⟩ => absurd hd (hask d), fun _ => hkept⟩

end Sys2Proof.Machine
end

section
/-! A job that the host serves in every cycle (41_stream_transform.md R104): START, one fire per pair, and the drain that
completes it. -/

namespace Sys2Proof.Machine

variable {s t : State}

theorem reaches_add {j k : Nat} {u : State} (h : reaches j s t) : reaches (j + k) s u ↔ reaches k t u := by
  induction j generalizing s with
  | zero =>
    obtain rfl := (reaches_zero t).1 h
    rw [Nat.zero_add]
  | succ j ih =>
    cases hs : step s with
    | next s' => rw [Nat.add_right_comm, reaches_succ hs, ih ((reaches_succ hs).1 h)]
    | fault r => exact nomatch r
    | refused r => exact absurd h (by simp [reaches, Host.Core.run, show Sys2Proof.core.step s = _ from hs])

theorem State.input_of_program {c : CycleIn} {cs : List CycleIn} (h : s.program = c :: cs) : s.input = c := by
  rw [State.input, h, List.headD_cons]

theorem CycleIn.offersAndTakes_iff {c : CycleIn} : c.offersAndTakes = true ↔
    c.rst = false ∧ c.bValid = true ∧ c.sValid = true ∧ c.rReady = true := by
  simp [CycleIn.offersAndTakes, and_assoc]

@[simp] theorem State.storeMode_mode (d : Word) : (s.storeMode d).block.mode = dataMode d := by
  apply BitVec.eq_of_getLsbD_eq
  intro k hk
  rw [Block.mode, BitVec.getLsbD_append]
  obtain rfl | rfl : k = 0 ∨ k = 1 := by omega
  · simp [dataGen, dataMode]
  · simp [dataRec, dataMode]

/-- A START with a legal MODE in a cycle that finds the block idle and empty. -/
theorem step_acceptStart (hr : s.input.rst = false) (hb : s.block.busy = false) (hf : s.block.outFull = false) {d : Word}
    (hp : portInstr s.input = some (.start d)) (hd : d.getLsbD 0 ≠ d.getLsbD 1) :
    step s = .next (s.beginCycle.storeMode d).acceptStart.advance := by
  rw [step_idle hr hb, drain_idle_empty hf, hp]
  exact congrArg (Host.Outcome.next ∘ State.advance) (State.startJob_of_legal hd _)

/-- A served cycle with pairs still to come: one fire, and the job goes on. -/
theorem step_served (hb : s.block.busy = true) (hrem : s.block.remain ≠ 0#33) (hc : s.input.offersAndTakes = true) :
    ∃ r done p rs m, step s = .next
      { block := { s.block with busy := true, done := done, outReg := r, outFull := true, remain := s.block.remain - 1#33 }
        ports := p
        program := s.program.tail
        bSeq := s.bSeq ++ [s.input.bData]
        sSeq := s.sSeq ++ [s.input.sData]
        rSeq := rs
        mem := m } := by
  obtain ⟨hr, hbv, hsv, hrr⟩ := CycleIn.offersAndTakes_iff.1 hc
  have hf : fires s.block s.input = true := (fires_iff _ _).2 ⟨hr, hb, hrem, hbv, hsv, .inr hrr⟩
  have h := step_busy_eq hr hb hf.symm rfl rfl rfl rfl
  simp only [if_true, Bool.true_or, Bool.not_true, Bool.and_false, Bool.not_false, Bool.false_or] at h
  exact ⟨_, _, _, _, _, h⟩

/-- A cycle that takes the result once REMAIN = 0: the drain, and the job is done. -/
theorem step_lastDrain (hb : s.block.busy = true) (hrem : s.block.remain = 0#33) (hfull : s.block.outFull = true)
    (hr : s.input.rst = false) (hrr : s.input.rReady = true) : ∃ p m, step s = .next
      { block := { s.block with remain := 0#33, outFull := false, busy := false, done := true }
        ports := p
        program := s.program.tail
        bSeq := s.bSeq
        sSeq := s.sSeq
        rSeq := s.rSeq ++ [resultSlot s.block.outReg]
        mem := m } := by
  have hf : fires s.block s.input = false := by simp [fires, hrem]
  have hd : drains s.block s.input = true := by simp [drains, hr, hfull, hrr]
  have h := step_busy_eq hr hb hf.symm hd.symm rfl (show s.block.remain = _ from rfl) rfl
  simp only [hfull, hrem, Bool.false_eq_true, if_false, if_true, Bool.false_or, Bool.not_true, Bool.and_false, Bool.not_false,
    Bool.and_true, beq_self_eq_true, Bool.true_or] at h
  exact ⟨_, _, h⟩

/-- `t` is where the running job of `s` stands after the host has served it in the cycles `cs`: it has taken their pairs
and still runs. -/
structure ServedBy (cs : List CycleIn) (s t : State) : Prop where
  reached : reaches cs.length s t
  inv : JobInv t
  busy : t.block.busy = true
  mode : t.block.mode = s.block.mode
  width : t.block.width = s.block.width
  height : t.block.height = s.block.height
  remain : t.block.remain.toNat + cs.length = s.block.remain.toNat
  program : s.program = cs ++ t.program
  bSeq : t.bSeq = s.bSeq ++ cs.map CycleIn.bData
  sSeq : t.sSeq = s.sSeq ++ cs.map CycleIn.sData

theorem ServedBy.nil (hs : JobInv s) (hb : s.block.busy = true) : ServedBy [] s s where
  reached := (reaches_zero s).2 rfl
  inv := hs
  busy := hb
  mode := rfl
  width := rfl
  height := rfl
  remain := rfl
  program := rfl
  bSeq := (List.append_nil _).symm
  sSeq := (List.append_nil _).symm

theorem ServedBy.single {c : CycleIn} {rest : List CycleIn} (hs : JobInv s) (hb : s.block.busy = true)
    (hrem : s.block.remain ≠ 0#33) (hprog : s.program = c :: rest) (hc : c.offersAndTakes = true) :
    ∃ t, ServedBy [c] s t ∧ t.program = rest := by
  obtain rfl : s.input = c := State.input_of_program hprog
  obtain ⟨r, done, p, rs, m, hstep⟩ := step_served hb hrem hc
  have htail : s.program.tail = rest := by rw [hprog, List.tail_cons]
  exact ⟨_, {
    reached := reaches_one hstep
    inv := stepKeepsJobInv _ _ hs hstep
    busy := rfl
    mode := rfl
    width := rfl
    height := rfl
    remain := remain_sub_one hrem
    program := hprog.trans (congrArg (List.cons _) htail.symm)
    bSeq := rfl
    sSeq := rfl }, htail⟩

theorem ServedBy.trans {cs cs' : List CycleIn} {u : State} (h : ServedBy cs s t) (h' : ServedBy cs' t u) :
    ServedBy (cs ++ cs') s u where
  reached := by rw [List.length_append, reaches_add h.reached]; exact h'.reached
  inv := h'.inv
  busy := h'.busy
  mode := h'.mode.trans h.mode
  width := h'.width.trans h.width
  height := h'.height.trans h.height
  remain := by rw [List.length_append, ← h.remain, ← h'.remain]; omega
  program := by rw [h.program, h'.program, List.append_assoc]
  bSeq := by rw [h'.bSeq, h.bSeq, List.map_append, List.append_assoc]
  sSeq := by rw [h'.sSeq, h.sSeq, List.map_append, List.append_assoc]

/-- As long as pairs are to come, each served cycle takes one; none ends the job. -/
theorem exists_servedBy (cs : List CycleIn) {rest : List CycleIn} (hcs : ∀ c ∈ cs, c.offersAndTakes = true) :
    ∀ {s : State}, JobInv s → s.block.busy = true → s.program = cs ++ rest → cs.length ≤ s.block.remain.toNat →
      ∃ t, ServedBy cs s t := by
  induction cs with
  | nil => exact fun hs hb _ _ => ⟨_, .nil hs hb⟩
  | cons c cs ih =>
    intro s hs hb hprog hlen
    obtain ⟨hc, hcs⟩ := List.forall_mem_cons.1 hcs
    rw [List.length_cons] at hlen
    have hrem : s.block.remain ≠ 0#33 := by
      intro h
      simp [h] at hlen
    obtain ⟨u, hu, hrest⟩ := ServedBy.single hs hb hrem hprog hc
    have hleft : u.block.remain.toNat + 1 = s.block.remain.toNat := hu.remain
    obtain ⟨t, ht⟩ := ih hcs hu.inv hu.busy hrest (by omega)
    exact ⟨t, hu.trans ht⟩

/-- What a completed job of the given MODE leaves: DONE set and the results of its pairs, in order, on stream R. -/
structure JobDelivered (m : Mode) (bs ss : List Slot) (t : State) : Prop where
  inv : JobInv t
  done : t.block.done = true
  rSeq : t.rSeq = List.zipWith (pairResult m) bs ss

/-- The result that waits once REMAIN = 0 is the last one, and taking it completes the job (41_stream_transform.md R97). -/
theorem exists_lastDrain {d : CycleIn} {rest : List CycleIn} (hs : JobInv s) (hb : s.block.busy = true)
    (hrem : s.block.remain = 0#33) (hprog : s.program = d :: rest) (hr : d.rst = false) (hrr : d.rReady = true) :
    ∃ t, step s = .next t ∧ JobDelivered s.block.mode s.bSeq s.sSeq t ∧ t.block.width = s.block.width ∧
      t.block.height = s.block.height ∧ t.program = rest := by
  obtain rfl : s.input = d := State.input_of_program hprog
  have hfull : s.block.outFull = true := (hs.busyWork hb).resolve_left (not_not_intro hrem)
  obtain ⟨p, m, hstep⟩ := step_lastDrain hb hrem hfull hr hrr
  have hresults := hs.results hb
  rw [Block.pending, if_pos hfull] at hresults
  exact ⟨_, hstep, ⟨stepKeepsJobInv _ _ hs hstep, rfl, hresults⟩, rfl, rfl, by rw [hprog, List.tail_cons]⟩

/-- A job served from its START to its last drain (41_stream_transform.md R104); the next job finds the same dimensions. -/
theorem exists_servedJob {data : Word} {c₀ d : CycleIn} {cs rest : List CycleIn} (hs : JobInv s)
    (hb : s.block.busy = false) (hprog : s.program = c₀ :: (cs ++ d :: rest)) (hr₀ : c₀.rst = false)
    (hp : portInstr c₀ = some (.start data)) (hdata : data.getLsbD 0 ≠ data.getLsbD 1)
    (hlen : cs.length = frameCount s.block.width s.block.height) (hne : frameCount s.block.width s.block.height ≠ 0)
    (hcs : ∀ c ∈ cs, c.offersAndTakes = true) (hr : d.rst = false) (hrr : d.rReady = true) :
    ∃ t, reaches (cs.length + 2) s t ∧
      JobDelivered (dataMode data) (cs.map CycleIn.bData) (cs.map CycleIn.sData) t ∧
      t.block.width = s.block.width ∧ t.block.height = s.block.height ∧ t.program = rest := by
  obtain rfl : s.input = c₀ := State.input_of_program hprog
  have hstart := step_acceptStart hr₀ hb (hs.idleEmpty hb).2 hp hdata
  have hbusy : (s.beginCycle.storeMode data).acceptStart.advance.block.busy = true := by
    simpa [frameCountWord_eq_zero] using hne
  have hcount : (frameCountWord s.block.width s.block.height).toNat = cs.length := by rw [frameCountWord_toNat, hlen]
  obtain ⟨u, hu⟩ := exists_servedBy cs hcs (stepKeepsJobInv _ _ hs hstart) hbusy (congrArg List.tail hprog) hcount.ge
  have hrem : u.block.remain = 0#33 := by
    have h : u.block.remain.toNat + cs.length = cs.length := hu.remain.trans hcount
    exact BitVec.eq_of_toNat_eq (by simpa using h)
  have hrest : u.program = d :: rest := by
    have h : cs ++ d :: rest = cs ++ u.program := (congrArg List.tail hprog).symm.trans hu.program
    exact (List.append_cancel_left h).symm
  obtain ⟨t, hlast, hdel, hw, hh, ht⟩ := exists_lastDrain hu.inv hu.busy hrem hrest hr hrr
  have hmode : u.block.mode = dataMode data := hu.mode.trans (State.storeMode_mode (s := s.beginCycle) data)
  rw [hmode, hu.bSeq, hu.sSeq] at hdel
  exact ⟨t, (reaches_succ hstart).2 ((reaches_add hu.reached).2 (reaches_one hlast)), hdel, hw.trans hu.width,
    hh.trans hu.height, ht⟩

theorem offerSample_offersAndTakes {fileB fileS : Memory} {n i : Nat} (hB : holdsFrame fileB n) (hS : holdsFrame fileS n)
    (hi : i < n) : (CycleIn.offerSample fileB fileS i).offersAndTakes = true :=
  CycleIn.offersAndTakes_iff.2 ⟨rfl, hB i hi, hS i hi, rfl⟩

/-- Settles O54: the files' samples are the job's pairs, and the output file holds the job's results. -/
theorem frameGoesThroughEndToEnd : Obligations.FrameGoesThroughEndToEnd := by
  intro s data c₀ fileB fileS rest hs hb hne hprog hr₀ hp hdata hB hS
  generalize hn : frameCount s.block.width s.block.height = n at *
  have hlen : ((List.range n).map (CycleIn.offerSample fileB fileS)).length = n := by simp
  have hserved : ∀ c ∈ (List.range n).map (CycleIn.offerSample fileB fileS), c.offersAndTakes = true := by
    intro c hc
    obtain ⟨i, hi, rfl⟩ := List.mem_map.1 hc
    exact offerSample_offersAndTakes hB hS (List.mem_range.1 hi)
  obtain ⟨t, hreach, hdel, -, -, hrest⟩ := exists_servedJob (d := CycleIn.take) (rest := rest) hs hb
    (by rw [hprog, offerFrame, List.cons_append, List.append_assoc, List.singleton_append]) hr₀ hp hdata
    (hlen.trans hn.symm) (hn.symm ▸ hne) hserved rfl rfl
  rw [hlen] at hreach
  refine ⟨t, hreach, hdel.done, hrest, fun i b v hi hbi hvi => ?_⟩
  have hresult : t.rSeq[i]? = some (pairResult (dataMode data) b v) := by
    simp [hdel.rSeq, List.getElem?_range hi, CycleIn.offerSample, hbi, hvi]
  obtain ⟨hlt, -⟩ := List.getElem?_eq_some_iff.1 hresult
  rw [hdel.inv.buffer i hlt, hresult]

end Sys2Proof.Machine
end

section
/-! The fields of a transaction word (30_encoding.md R58): WE, ADDR and DATA make up the word, and each is read
back. -/

namespace Sys2Proof

@[simp] theorem Transaction.we_make (we : Bool) (a : RegIndex) (d : Word) :
    Transaction.we (Transaction.make we a d) = we :=
  Laws.TableRow.getLsbD_make we a d 35

@[simp] theorem Transaction.addr_make (we : Bool) (a : RegIndex) (d : Word) :
    Transaction.addr (Transaction.make we a d) = a :=
  (BitVec.extractLsb'_append_eq_of_le (Nat.le_refl 32)).trans BitVec.extractLsb'_append_eq_right

@[simp] theorem Transaction.data_make (we : Bool) (a : RegIndex) (d : Word) :
    Transaction.data (Transaction.make we a d) = d :=
  BitVec.extractLsb'_append_eq_right

@[simp] theorem Transaction.make_fields (t : Transaction) :
    Transaction.make (Transaction.we t) (Transaction.addr t) (Transaction.data t) = t := by
  apply BitVec.eq_of_getLsbD_eq
  intro k hk
  rw [Laws.TableRow.getLsbD_make]
  split
  next hdata => simp [Transaction.data, hdata]
  next hdata =>
    split
    next haddr => simp [Transaction.addr, show k - 32 < 3 by omega, show 32 + (k - 32) = k by omega]
    next haddr =>
      obtain rfl : k = 35 := by omega
      simp [Transaction.we]

/-- DATA is the low part of the word, so it adds to the word with DATA = 0 without a carry. -/
theorem Transaction.make_eq_add (we : Bool) (a : RegIndex) (d : Word) :
    Transaction.make we a d = Transaction.make we a 0#32 + d.setWidth 36 := by
  rw [BitVec.setWidth_eq_append (show 32 ≤ 36 by decide)]
  exact BitVec.append_zero_add_zero_append.symm

end Sys2Proof
end

section
/-! Decoding and encoding (30_encoding.md R63, R64): what each row of the opcode table decodes to, said once, and the two
directions of the round trip. -/

namespace Sys2Proof

section Rows

variable {t : Transaction}

theorem decodeRegport_of_read (hwe : Transaction.we t = false) :
    decodeRegport t = .regRead (Reg.ofIndex (Transaction.addr t)) (Transaction.data t) :=
  if_pos hwe

theorem decodeRegport_of_start (hwe : Transaction.we t = true) (ha : Transaction.addr t = 0#3)
    (hd : isStartData (Transaction.data t) = true) : decodeRegport t = .start (Transaction.data t) := by
  simp [decodeRegport, hwe, ha, hd]

theorem decodeRegport_of_write (hwe : Transaction.we t = true)
    (hns : ¬ (Transaction.addr t = 0#3 ∧ isStartData (Transaction.data t) = true)) :
    decodeRegport t = .regWrite (Reg.ofIndex (Transaction.addr t)) (Transaction.data t) := by
  rw [decodeRegport, if_neg (by simp [hwe]), if_neg hns]

/-! The match and mask columns of R63, as conditions on the fields. -/

theorem and_weMask (t : Transaction) :
    t &&& 0x800000000#36 = if Transaction.we t then 0x800000000#36 else 0x000000000#36 := by
  simpa using Laws.TableRow.make_and_we (Transaction.we t) (Transaction.addr t) (Transaction.data t)

theorem and_startMask_iff (hwe : Transaction.we t = true) : t &&& 0xF00000004#36 = 0x800000004#36 ↔
    Transaction.addr t = 0#3 ∧ isStartData (Transaction.data t) = true := by
  simpa [← hwe] using Laws.TableRow.make_and_start (Transaction.addr t) (Transaction.data t)

/-- START's row lies within WE = 1. -/
theorem we_of_and_startMask (h : t &&& 0xF00000004#36 = 0x800000004#36) : Transaction.we t = true := by
  have := congrArg (·.getLsbD 35) h
  simpa [Transaction.we] using this

end Rows

/-- Settles O2, instruction by instruction: the fields are read back from the word, and well-formedness is what puts a
write to CTRL in the row it was encoded in. -/
theorem decodeOfEncodeIsIdentity : Obligations.DecodeOfEncodeIsIdentity := by
  intro i hwf
  cases i with
  | diff | recon => rfl
  | regRead reg ignored =>
    simp [encode, decode, decodeRegport_of_read]
  | start data =>
    simp [encode, decode, decodeRegport_of_start, Reg.index, show isStartData data = true from hwf]
  | regWrite reg data =>
    have hns : ¬ (reg.index = 0#3 ∧ isStartData data = true) := by
      simpa [Instr.wf, Laws.TableRow.index_eq_zero, imp_iff_not_or] using hwf
    simp [encode, decode, decodeRegport_of_write, hns]

/-- A decoded command keeps every field of its word, START's ADDR being CTRL's index. -/
theorem encode_decodeRegport (t : Transaction) : encode (decodeRegport t) = .regport t := by
  cases hwe : Transaction.we t with
  | false =>
    rw [decodeRegport_of_read hwe, encode, Reg.index_ofIndex, ← hwe, Transaction.make_fields]
  | true =>
    by_cases hs : Transaction.addr t = 0#3 ∧ isStartData (Transaction.data t) = true
    · obtain ⟨ha, hd⟩ := hs
      rw [decodeRegport_of_start hwe ha hd, encode, Reg.index, ← hwe, ← ha, Transaction.make_fields]
    · rw [decodeRegport_of_write hwe hs, encode, Reg.index_ofIndex, ← hwe, Transaction.make_fields]

theorem decodeMode_eq_ok {m : Mode} {i : Instr} (h : decodeMode m = .ok i) :
    m = 0b01#2 ∧ i = .diff ∨ m = 0b10#2 ∧ i = .recon := by
  unfold decodeMode at h
  split at h
  next => exact nomatch h
  next hm => exact .inl ⟨BitVec.eq_of_toNat_eq hm, (Decoded.ok.inj h).symm⟩
  next hm => exact .inr ⟨BitVec.eq_of_toNat_eq hm, (Decoded.ok.inj h).symm⟩
  next => exact nomatch h

/-- Settles O3: for a transaction by its fields, for a MODE value by the two values that decode. -/
theorem encodeOfDecodeIsIdentity : Obligations.EncodeOfDecodeIsIdentity := by
  intro c i h
  cases c with
  | mode m =>
    obtain ⟨rfl, rfl⟩ | ⟨rfl, rfl⟩ := decodeMode_eq_ok h
    · exact ⟨rfl, rfl⟩
    · exact ⟨rfl, rfl⟩
  | regport t =>
    obtain rfl := Decoded.ok.inj h
    exact ⟨encode_decodeRegport t, decodeRegport_wf t⟩

/-- Settles O4, row by row: match and mask read as conditions on the fields, then the decoder's case for them. -/
theorem everyTransactionDecodesInItsRow : Obligations.EveryTransactionDecodesInItsRow := by
  intro t
  refine ⟨fun hread => ?_, fun hstart => ?_, fun hwrite hns => ?_⟩
  · have hwe : Transaction.we t = false := by simpa [and_weMask] using hread
    exact ⟨_, Reg.index_ofIndex _, congrArg Decoded.ok (decodeRegport_of_read hwe)⟩
  · have hwe := we_of_and_startMask hstart
    obtain ⟨ha, hd⟩ := (and_startMask_iff hwe).1 hstart
    exact congrArg Decoded.ok (decodeRegport_of_start hwe ha hd)
  · have hwe : Transaction.we t = true := by simpa [and_weMask] using hwrite
    have hnf := mt (and_startMask_iff hwe).2 hns
    exact ⟨_, Reg.index_ofIndex _, congrArg Decoded.ok (decodeRegport_of_write hwe hnf)⟩

/-- Settles O1: each word of R70 and each legal MODE is the encoding of a well-formed instruction, so it decodes to
that instruction; the two illegal MODE values are evaluated. -/
theorem encodingExamplesDecode : Obligations.EncodingExamplesDecode :=
  ⟨decodeOfEncodeIsIdentity (.regWrite .width 4#32) rfl, decodeOfEncodeIsIdentity (.regWrite .height 2#32) rfl,
    decodeOfEncodeIsIdentity (.start 5#32) rfl, decodeOfEncodeIsIdentity (.start 6#32) rfl,
    decodeOfEncodeIsIdentity (.start 7#32) rfl, decodeOfEncodeIsIdentity (.start 4#32) rfl,
    decodeOfEncodeIsIdentity (.regWrite .ctrl 3#32) rfl, decodeOfEncodeIsIdentity (.regRead .status 0#32) rfl,
    decodeOfEncodeIsIdentity (.regRead .remainLo 0#32) rfl,
    decodeOfEncodeIsIdentity (.regWrite .status 0xFFFFFFFF#32) rfl,
    decodeOfEncodeIsIdentity (.regWrite .countLo 4#32) rfl,
    decodeOfEncodeIsIdentity .diff rfl, decodeOfEncodeIsIdentity .recon rfl, rfl, rfl⟩

end Sys2Proof
end

section
/-! Words placed on the host's side: pseudo-instructions (30_encoding.md R69) and placed code words (R68; log entry 9). -/

namespace Sys2Proof.Machine

@[simp] theorem CycleIn.transaction_command (t : Transaction) : (CycleIn.command t).transaction = t :=
  Transaction.make_fields t

theorem CycleIn.transaction_wr (reg : Reg) (imm : Word) :
    (CycleIn.wr reg imm).transaction = Transaction.make true reg.index 0#32 + imm.setWidth 36 := by
  rw [CycleIn.wr, CycleIn.transaction_command, Transaction.make_eq_add]

/-- Settles O5: a `wr` makes the access with the word that its mnemonic names; `dim` is two of them. -/
theorem pseudoInstructionsExpand : Obligations.PseudoInstructionsExpand := by
  have ctrl := CycleIn.transaction_wr .ctrl
  refine ⟨rfl, ⟨rfl, ctrl _⟩, ⟨rfl, ctrl _⟩, ⟨rfl, ctrl _⟩, ⟨rfl, ctrl _⟩,
    ⟨rfl, CycleIn.transaction_command _⟩, fun w h => ?_⟩
  simp only [CycleIn.dim, List.map, CycleIn.transaction_wr]
  rfl

theorem tableCodeWord_transaction {w : Nat} (h : w < 2 ^ 36) :
    tableCodeWord 40 w = some (.regport (BitVec.ofNat 36 w)) :=
  if_pos h

/-- The cycle with a transaction on its register port. -/
def CycleIn.withCommand (c : CycleIn) (t : Transaction) : CycleIn :=
  { c with rst := false, regEn := true, regWe := Transaction.we t, regAddr := Transaction.addr t,
           regWdata := Transaction.data t }

@[simp] theorem portInstr_withCommand (c : CycleIn) (t : Transaction) :
    portInstr (c.withCommand t) = (decode (.regport t)).toOption :=
  congrArg (fun t => (decode (.regport t)).toOption) (Transaction.make_fields t)

theorem State.withFetchWord_transaction (s : State) {w : Nat} (h : w < 2 ^ 36) :
    s.withFetchWord 40 w = s.withInput (s.input.withCommand (BitVec.ofNat 36 w)) := by
  rw [State.withFetchWord, tableCodeWord_transaction h]
  rfl

theorem legalMode_of_decode {m : Mode} {i : Instr} (h : decodeMode m = .ok i) : legalMode m = true := by
  rw [legalMode, h]

theorem jobInstr_of_decode {b : Block} {i : Instr} (h : decode (.mode b.mode) = .ok i) : jobInstr b = i := by
  rw [jobInstr, h]

@[simp] theorem dataMode_setWidth (m : Mode) : dataMode (m.setWidth 32) = m := by
  revert m; decide

/-- The block from which loadJob starts its job: idle, with an empty buffer and a frame of at least one sample. -/
def Block.loadable (b : Block) : Block :=
  if frameCountWord b.width b.height = 0#33 then
    { b with busy := false, outFull := false, width := 1#16, height := 1#16 }
  else { b with busy := false, outFull := false }

theorem Block.loadable_outFull (b : Block) : b.loadable.outFull = false := by
  unfold Block.loadable
  split <;> rfl

theorem Block.loadable_frameCountWord (b : Block) : frameCountWord b.loadable.width b.loadable.height ≠ 0#33 := by
  unfold Block.loadable
  split
  next => exact (by decide : frameCountWord 1#16 1#16 ≠ 0#33)
  next hne => exact hne

/-- A loaded job of a legal MODE is one that START accepted, with both inputs offered in the next cycle. -/
theorem State.loadJob_of_legal (s : State) {m : Mode} (hm : legalMode m = true) : s.loadJob m =
    ({ s with block := s.block.loadable }.storeMode (m.setWidth 32)).acceptStart.withInput
      { s.input with rst := false, regEn := false, bValid := true, sValid := true } := by
  have hstart (t : State) : t.startJob (m.setWidth 32) = (t.storeMode (m.setWidth 32)).acceptStart := by
    rw [State.startJob, dataMode_setWidth, if_pos hm]
  exact congrArg (State.withInput · _) (hstart { s with block := s.block.loadable })

/-- A loaded job of a legal MODE runs that MODE's operation, and its next cycle fires and makes no register access. -/
theorem State.loadJob_fires (s : State) {m : Mode} {i : Instr} (hi : decode (.mode m) = .ok i) :
    jobInstr (s.loadJob m).block = i ∧ portInstr (s.loadJob m).input = none ∧
      fires (s.loadJob m).block (s.loadJob m).input = true ∧ (s.loadJob m).mem = s.mem := by
  rw [s.loadJob_of_legal (legalMode_of_decode hi)]
  have hmode : ({ s with block := s.block.loadable }.storeMode (m.setWidth 32)).acceptStart.block.mode = m :=
    (State.storeMode_mode (s := { s with block := s.block.loadable }) _).trans (dataMode_setWidth m)
  refine ⟨jobInstr_of_decode (hmode.symm ▸ hi), rfl, ?_, rfl⟩
  simp [fires, Block.loadable_outFull, Block.loadable_frameCountWord]

/-- Settles O6: a placed transaction is the next input's command; a placed MODE value is a loaded job. -/
theorem placedWordRunsNext : Obligations.PlacedWordRunsNext := by
  refine ⟨fun s w hw => ?_, fun s w hw => ?_⟩
  · rw [s.withFetchWord_transaction hw, State.withInput_input, portInstr_withCommand, decodeTableWord,
      tableCodeWord_transaction hw]
    exact ⟨rfl, rfl, rfl⟩
  · obtain rfl | rfl := hw
    · obtain ⟨hinstr, hrest⟩ := s.loadJob_fires (m := 0b01#2) rfl
      exact ⟨congrArg some hinstr.symm, hrest⟩
    · obtain ⟨hinstr, hrest⟩ := s.loadJob_fires (m := 0b10#2) rfl
      exact ⟨congrArg some hinstr.symm, hrest⟩

end Sys2Proof.Machine
end

section
/-! The sample operations as 10-bit arithmetic (40_sample_ops.md R75, R78): modulo 1024 the bias is its own negative, so
both operations add it, and both round trips are identities of addition. -/

namespace Sys2Proof.Machine

theorem toNat_low (x : Slot) : (x.extractLsb' 0 10).toNat = x.toNat % 1024 :=
  sampleValue_eq x

@[simp] theorem low_resultSlot (r : Sample) : (resultSlot r).extractLsb' 0 10 = r :=
  BitVec.eq_of_toNat_eq (sampleValue_resultSlot r)

/-- A slot with bits [15:10] clear carries nothing but its sample. -/
theorem resultSlot_low {x : Slot} (h : x.toNat ≤ 1023) : resultSlot (x.extractLsb' 0 10) = x := by
  apply BitVec.eq_of_toNat_eq
  rw [resultSlot_toNat, toNat_low]
  omega

/-- R73's formula in 10 bits. -/
theorem diff10_eq (a b : Slot) : diff10 a b = a.extractLsb' 0 10 - b.extractLsb' 0 10 + 512#10 := by
  have hd := diff10_toInt a b
  rw [← toNat_low, ← toNat_low] at hd
  bv_omega

/-- R76's formula in 10 bits, with the bias added instead of subtracted. -/
theorem recon10_eq (b d : Slot) : recon10 b d = b.extractLsb' 0 10 + d.extractLsb' 0 10 + 512#10 := by
  have hr := recon10_toInt b d
  rw [← toNat_low, ← toNat_low] at hr
  bv_omega

/-- Adding 2^9 inverts bit 9, the quotient by 2^9, and leaves the 9 bits below it, the remainder. -/
theorem xor_bitNine (z : Sample) : z ^^^ 0x200#10 = z + 512#10 := by
  have hz := z.isLt
  have hlow : (z.toNat ^^^ 512) % 512 = z.toNat % 512 := by
    simpa using Nat.xor_mod_two_pow (a := z.toNat) (b := 512) (n := 9)
  have hbit : (z.toNat ^^^ 512) / 512 = 1 - z.toNat / 512 := by
    have hdiv : (z.toNat ^^^ 512) / 512 = z.toNat / 512 ^^^ 1 := Nat.xor_div_two_pow (n := 9)
    obtain hq | hq : z.toNat / 512 = 0 ∨ z.toNat / 512 = 1 := by omega
    · rw [hdiv, hq]; rfl
    · rw [hdiv, hq]; rfl
  apply BitVec.eq_of_toNat_eq
  change z.toNat ^^^ 512 = (z.toNat + 512) % 1024
  omega

/-- Settles O8: the bias addition is the inversion of bit 9, and the subtractor an adder of the complement plus 1. -/
theorem datapathIsXorOfBitNine : Obligations.DatapathIsXorOfBitNine := by
  intro x y
  have hdiff : diff10 x y = (x.extractLsb' 0 10 - y.extractLsb' 0 10) ^^^ 0x200#10 := by rw [xor_bitNine, diff10_eq]
  refine ⟨hdiff, ?_, by rw [xor_bitNine, recon10_eq]⟩
  rw [hdiff, BitVec.sub_eq_add_neg, BitVec.neg_eq_not_add, BitVec.add_assoc]

/-- R82 on samples: the two biases cancel. -/
theorem recon10_diff10 (a b : Slot) : recon10 b (resultSlot (diff10 a b)) = a.extractLsb' 0 10 := by
  rw [recon10_eq, low_resultSlot, diff10_eq]
  bv_omega

/-- R83 on samples. -/
theorem diff10_recon10 (b d : Slot) : diff10 (resultSlot (recon10 b d)) b = d.extractLsb' 0 10 := by
  rw [diff10_eq, low_resultSlot, recon10_eq]
  bv_omega

/-- Settles O9: the round trip gives the minuend's sample, which is the whole slot if its upper bits are clear. -/
theorem reconOfDiffIsMinuend : Obligations.ReconOfDiffIsMinuend := fun a b =>
  ⟨by rw [recon10_diff10, toNat_low], fun ha _ => by rw [recon10_diff10, resultSlot_low ha]⟩

/-- Settles O10: both compositions are a round trip on the sample that the slot carries. -/
theorem diffOfReconIsDifference : Obligations.DiffOfReconIsDifference :=
  ⟨fun b d hd => by rw [diff10_recon10, resultSlot_low hd],
    fun b => ⟨fun x => (recon10_diff10 (resultSlot x) b).trans (low_resultSlot x),
      fun x => (diff10_recon10 b (resultSlot x)).trans (low_resultSlot x)⟩⟩

/-- In its natural range the biased difference needs no reduction, so taking the bias off is the inverse. -/
theorem bias_bijOn : Set.BijOn (fun x : Int => (x + 512) % 1024) (Set.Icc (-512) 511) (Set.Icc 0 1023) := by
  refine Set.InvOn.bijOn (f' := fun c => c - 512) ⟨fun x ⟨hlo, hhi⟩ => ?_, fun c ⟨hlo, hhi⟩ => ?_⟩
    (fun x _ => ?_) (fun c ⟨hlo, hhi⟩ => ?_)
  · exact show (x + 512) % 1024 - 512 = x by omega
  · exact show (c - 512 + 512) % 1024 = c by omega
  · exact show 0 ≤ (x + 512) % 1024 ∧ (x + 512) % 1024 ≤ 1023 by omega
  · exact show -512 ≤ c - 512 ∧ c - 512 ≤ 511 by omega

/-- Settles O11: what a stored code less the bias reads back as is R73's formula modulo 1024. -/
theorem biasCentresDifferences : Obligations.BiasCentresDifferences := by
  refine ⟨bias_bijOn, rfl, rfl, rfl, fun a b => ?_⟩
  have hcode := diff10_toInt a b
  refine ⟨fun hlo hhi => by omega, ?_, (reconOfDiffIsMinuend a b).1⟩
  unfold Int.ModEq
  omega

/-- Settles O12: opposite differences, each with the bias, add up to twice the bias, which is 1024; they agree exactly if
twice the difference is 0 modulo 1024. -/
theorem diffAndReconCommutation : Obligations.DiffAndReconCommutation := by
  intro x y
  have hxy := diff10_toInt x y
  have hyx := diff10_toInt y x
  refine ⟨by omega, ?_, by rw [recon10_eq, recon10_eq, BitVec.add_comm (x.extractLsb' 0 10)]⟩
  rw [← BitVec.toNat_inj]
  unfold Int.ModEq
  omega

/-- Settles O13: both formulas are in terms of bits [9:0]. -/
theorem upperSlotBitsAreIgnored : Obligations.UpperSlotBitsAreIgnored := fun a a' b b' ha hb =>
  ⟨by rw [diff10_eq, diff10_eq, ha, hb], by rw [recon10_eq, recon10_eq, ha, hb]⟩

end Sys2Proof.Machine
end

section
/-! The result of a fire (40_sample_ops.md R86): the job's operation on the two slots of the cycle. -/

namespace Sys2Proof.Machine

theorem step_outReg_of_fires {s t : State} (h : step s = .next t) (hf : fires s.block s.input = true) :
    t.block.outReg = fireResult s.block s.input := by
  obtain ⟨hr, hb, -⟩ := (fires_iff _ _).1 hf
  obtain rfl := Host.Outcome.next.inj ((step_busy_eq hr hb hf.symm rfl rfl rfl rfl).symm.trans h)
  rfl

theorem Block.mode_getLsbD_zero (b : Block) : b.mode.getLsbD 0 = b.genBit := by
  rw [Block.mode, BitVec.getLsbD_append]; simp

theorem Block.mode_getLsbD_one (b : Block) : b.mode.getLsbD 1 = b.recBit := by
  rw [Block.mode, BitVec.getLsbD_append]; simp

theorem fireResult_congr_mode {b b' : Block} (h : b.mode = b'.mode) (c : CycleIn) : fireResult b c = fireResult b' c := by
  rw [fireResult, ← b.mode_getLsbD_zero, ← b.mode_getLsbD_one, h, b'.mode_getLsbD_zero, b'.mode_getLsbD_one, fireResult]

/-- Settles O30: a fire leaves the result that its MODE and its slots' low bits give. -/
theorem fireResultDependsOnSlotsOnly : Obligations.FireResultDependsOnSlotsOnly := by
  intro s₁ s₂ t₁ t₂ h₁ h₂ hf₁ hf₂ hmode hB hS
  calc t₁.block.outReg
      = fireResult s₁.block s₁.input := step_outReg_of_fires h₁ hf₁
    _ = fireResult s₁.block s₂.input := fireResult_withSlots s₁.block (c := s₂.input) hB hS
    _ = fireResult s₂.block s₂.input := fireResult_congr_mode hmode _
    _ = t₂.block.outReg := (step_outReg_of_fires h₂ hf₂).symm

end Sys2Proof.Machine
end

section
/-! Two jobs in a row on frame files (95_test_vectors.md E4): the second reads the file that the first wrote. -/

namespace Sys2Proof.Machine

/-- A job on two frame files, from its START to its last drain; what it leaves is ready for another of the same size. -/
theorem exists_frameJob {s : State} {data : Word} {c₀ : CycleIn} {fileB fileS : Memory} {n : Nat} (hs : JobInv s)
    (hb : s.block.busy = false) (hn : frameCount s.block.width s.block.height = n) (hne : n ≠ 0)
    (hprog : s.program = c₀ :: offerFrame fileB fileS n) (hr₀ : c₀.rst = false)
    (hp : portInstr c₀ = some (.start data)) (hdata : data.getLsbD 0 ≠ data.getLsbD 1)
    (hB : holdsFrame fileB n) (hS : holdsFrame fileS n) :
    ∃ t, reaches (n + 2) s t ∧ JobInv t ∧ t.block.done = true ∧ frameCount t.block.width t.block.height = n ∧
      ∀ i b v, i < n → readSample fileB i = some b → readSample fileS i = some v →
        readSample t.mem i = some (pairResult (dataMode data) b v) := by
  subst hn
  obtain ⟨t, hreach, hdel, hw, hh, -⟩ := exists_servedJob (cs := (List.range _).map (CycleIn.offerSample fileB fileS))
    hs hb hprog hr₀ hp hdata (by rw [List.length_map, List.length_range]) hne
    (List.forall_mem_map.2 fun i hi => offerSample_offersAndTakes hB hS (List.mem_range.1 hi)) rfl rfl
  rw [List.length_map, List.length_range] at hreach
  obtain ⟨t', hreach', -, -, hread⟩ := frameGoesThroughEndToEnd s data c₀ fileB fileS [] hs hb hne
    (hprog.trans (List.append_nil _).symm) hr₀ hp hdata hB hS
  obtain rfl : t = t' := Host.Outcome.next.inj (hreach.symm.trans hreach')
  exact ⟨t, hreach, hdel.inv, hdel.done, by rw [hw, hh], hread⟩

/-- A RECON job's law undoes a DIFF job's on the same base (R82). -/
theorem pairResult_recon_diff (a b : Slot) : (pairResult 0b10#2 b (pairResult 0b01#2 b a)).toNat = a.toNat % 1024 :=
  (resultSlot_toNat _).trans (reconOfDiffIsMinuend a b).1

theorem JobInv.errMode_of_done {s : State} (h : JobInv s) (hdone : s.block.done = true) : s.block.errMode = false := by
  cases e : s.block.errMode with
  | false => rfl
  | true => exact absurd hdone (by simp [(h.errIdle e).2])

/-- Settles O55: each job's file is its pair law sample by sample, and RECON's law undoes DIFF's. -/
theorem wholeFrameRoundTrip : Obligations.WholeFrameRoundTrip := by
  intro s fileA fileB hs hb hne hprog hA hB
  obtain ⟨t, hreach, ht, hdone, hn, hdiff⟩ :=
    exists_frameJob (data := 5#32) hs hb rfl hne hprog rfl (by decide) (by decide) hB hA
  have hD : holdsFrame t.mem (frameCount s.block.width s.block.height) := by
    intro i hi
    obtain ⟨a, hai⟩ := Option.isSome_iff_exists.1 (hA i hi)
    obtain ⟨b, hbi⟩ := Option.isSome_iff_exists.1 (hB i hi)
    rw [hdiff i b a hi hbi hai, Option.isSome_some]
  obtain ⟨u, hreach', hu, hdone', -, hrecon⟩ := exists_frameJob (data := 6#32)
    (ht.with_host (CycleIn.startRec :: offerFrame fileB t.mem _) t.ports) (ht.doneIdle hdone) hn hne rfl rfl (by decide)
    (by decide) hB hD
  refine ⟨t, u, hreach, hreach', hdone', hu.errMode_of_done hdone', fun i a hi hai => ?_⟩
  obtain ⟨b, hbi⟩ := Option.isSome_iff_exists.1 (hB i hi)
  exact ⟨_, hrecon i b _ hi hbi (hdiff i b a hi hbi hai), pairResult_recon_diff a b⟩

end Sys2Proof.Machine
end

section
/-! The cycle against the spec's own functions (41_stream_transform.md R101, R102): the fields of the cycle's command, what
an idle cycle does by its command, and the two functions. -/

namespace Sys2Proof

theorem Transaction.make_inj {w w' : Bool} {a a' : RegIndex} {d d' : Word} :
    Transaction.make w a d = Transaction.make w' a' d' ↔ w = w' ∧ a = a' ∧ d = d' := by
  refine ⟨fun h => ⟨?_, ?_, ?_⟩, fun ⟨hw, ha, hd⟩ => by rw [hw, ha, hd]⟩
  · simpa using congrArg Transaction.we h
  · simpa using congrArg Transaction.addr h
  · simpa using congrArg Transaction.data h

end Sys2Proof

namespace Sys2Proof.Machine

variable {s t : State}

/-! The command of a cycle, field by field (42_register_access.md R105). -/

theorem encode_portInstr {c : CycleIn} {i : Instr} (h : portInstr c = some i) :
    c.regEn = true ∧ encode i = .regport c.transaction := by
  unfold portInstr at h
  split at h
  next hen =>
    obtain rfl : decodeRegport c.transaction = i := Option.some.inj h
    exact ⟨hen, encode_decodeRegport _⟩
  next => exact nomatch h

theorem portInstr_eq_none_iff {c : CycleIn} : portInstr c = none ↔ c.regEn = false := by
  cases hen : c.regEn <;> simp [portInstr, hen, decode, Decoded.toOption]

theorem fields_of_portInstr_regRead {c : CycleIn} {reg : Reg} {d : Word} (h : portInstr c = some (.regRead reg d)) :
    c.regEn = true ∧ c.regWe = false ∧ c.regAddr = reg.index := by
  obtain ⟨hen, henc⟩ := encode_portInstr h
  obtain ⟨hwe, haddr, -⟩ := Transaction.make_inj.1 (CodeWord.regport.inj henc)
  exact ⟨hen, hwe.symm, haddr.symm⟩

theorem fields_of_portInstr_regWrite {c : CycleIn} {reg : Reg} {d : Word} (h : portInstr c = some (.regWrite reg d)) :
    c.regEn = true ∧ c.regWe = true ∧ c.regAddr = reg.index ∧ c.regWdata = d := by
  obtain ⟨hen, henc⟩ := encode_portInstr h
  obtain ⟨hwe, haddr, hdata⟩ := Transaction.make_inj.1 (CodeWord.regport.inj henc)
  exact ⟨hen, hwe.symm, haddr.symm, hdata.symm⟩

theorem fields_of_portInstr_start {c : CycleIn} {d : Word} (h : portInstr c = some (.start d)) :
    c.regEn = true ∧ c.regWe = true ∧ c.regAddr = Reg.ctrl.index ∧ c.regWdata = d := by
  obtain ⟨hen, henc⟩ := encode_portInstr h
  obtain ⟨hwe, haddr, hdata⟩ := Transaction.make_inj.1 (CodeWord.regport.inj henc)
  exact ⟨hen, hwe.symm, haddr.symm, hdata.symm⟩

/-- START is what a write to CTRL with the START bit does. -/
theorem State.writeReg_ctrl_of_start {d : Word} (h : isStartData d = true) (s : State) :
    s.writeReg .ctrl d = s.startJob d :=
  if_pos h

/-- An idle cycle by its command: a write, or at most a value on reg_rdata. -/
theorem step_idle_eq (hr : s.input.rst = false) (hb : s.block.busy = false) :
    step s = .next (if s.input.writes then s.beginCycle.drain.writeReg (Reg.ofIndex s.input.regAddr) s.input.regWdata
      else { s.beginCycle.drain with
        ports := { s.beginCycle.ports with regRdata := readData s.block s.input } }).advance := by
  have hports : s.beginCycle.drain = { s.beginCycle.drain with ports := s.beginCycle.ports } :=
    congrArg (fun p => { s.beginCycle.drain with ports := p }) State.drain_ports
  rw [step_idle hr hb]
  match e : portInstr s.input with
  | some (.start d) =>
    obtain ⟨hen, hwe, haddr, rfl⟩ := fields_of_portInstr_start e
    rw [if_pos (by simp [CycleIn.writes, hen, hwe]), haddr, Reg.ofIndex_index,
      State.writeReg_ctrl_of_start (wf_of_portInstr e)]
  | some (.regWrite reg d) =>
    obtain ⟨hen, hwe, haddr, rfl⟩ := fields_of_portInstr_regWrite e
    rw [if_pos (by simp [CycleIn.writes, hen, hwe]), haddr, Reg.ofIndex_index]
  | some (.regRead reg d) =>
    obtain ⟨hen, hwe, -⟩ := fields_of_portInstr_regRead e
    rw [if_neg (by simp [CycleIn.writes, hwe]), readData, e]
  | none =>
    rw [if_neg (by simp [CycleIn.writes, portInstr_eq_none_iff.1 e]), readData, e]
    exact congrArg (Host.Outcome.next ∘ State.advance) hports
  | some .diff => exact absurd e (portInstr_ne_sampleOp _).1
  | some .recon => exact absurd e (portInstr_ne_sampleOp _).2

/-! The next-state function. -/

/-- `SpecBlock.acceptStart` with the frame length by its name. -/
theorem SpecBlock.acceptStart_eq (b : Block) : SpecBlock.acceptStart b =
    if frameCount b.width b.height = 0 then
      { b with count := 0#33, remain := 0#33, errMode := false, busy := false, done := true }
    else
      { b with
        count := frameCountWord b.width b.height
        remain := frameCountWord b.width b.height
        errMode := false, busy := true, done := false } := rfl

theorem State.acceptStart_spec (s : State) : s.acceptStart.block = SpecBlock.acceptStart s.block := by
  rw [SpecBlock.acceptStart_eq, State.acceptStart_block]
  split
  next h => simp [(frameCountWord_eq_zero _ _).2 h]
  next h => simp [mt (frameCountWord_eq_zero _ _).1 h]

/-- `SpecBlock.regWrite` at CTRL, in the model's names for the fields of DATA. -/
theorem SpecBlock.regWrite_ctrl (b : Block) (d : Word) : SpecBlock.regWrite b 0 d =
    if isStartData d then
      if dataGen d != dataRec d then SpecBlock.acceptStart { b with genBit := dataGen d, recBit := dataRec d }
      else { b with genBit := dataGen d, recBit := dataRec d, errMode := true, done := false }
    else { b with genBit := dataGen d, recBit := dataRec d } := rfl

theorem State.startJob_spec (s : State) {d : Word} (hstart : isStartData d = true) :
    (s.startJob d).block = SpecBlock.regWrite s.block 0 d := by
  rw [SpecBlock.regWrite_ctrl, if_pos hstart]
  by_cases hd : dataGen d = dataRec d
  · rw [State.startJob_of_illegal hd, if_neg (by simp [hd])]
    rfl
  · rw [State.startJob_of_legal hd, if_pos (by simp [hd]), State.acceptStart_spec]
    rfl

theorem dataDim_eq (d : Word) : dataDim d = d.setWidth 16 :=
  (BitVec.setWidth_eq_extractLsb' (by decide)).symm

/-- What a write does to the block, by the register's index (42_register_access.md R110). -/
theorem State.writeReg_spec (s : State) (reg : Reg) (d : Word) :
    (s.writeReg reg d).block = SpecBlock.regWrite s.block reg.index.toNat d := by
  cases reg with
  | ctrl =>
    cases hd : isStartData d with
    | true => exact (congrArg State.block (State.writeReg_ctrl_of_start hd s)).trans (State.startJob_spec s hd)
    | false =>
      change _ = SpecBlock.regWrite s.block 0 d
      rw [SpecBlock.regWrite_ctrl, State.writeReg, if_neg (by simp [hd]), if_neg (by simp [hd]), State.storeMode_block]
  | width | height => simp [State.writeReg, SpecBlock.regWrite, Reg.index, dataDim_eq]
  | status | countLo | countHi | remainLo | remainHi => rfl

section SpecStep

variable {b : Block} {c : CycleIn}

theorem SpecBlock.fire_eq_fires (b : Block) (hr : c.rst = false) : SpecBlock.fire b c = fires b c := by
  rw [SpecBlock.fire, fires, hr, Bool.not_false, Bool.true_and]

theorem drains_eq (b : Block) (hr : c.rst = false) : drains b c = (b.outFull && c.rReady) := by
  simp [drains, hr]

/-- R101 while BUSY = 1: a fire, or else a drain, and completion by what they leave. -/
theorem SpecBlock.step_busy (hr : c.rst = false) (hb : b.busy = true) {f d full comp : Bool} {rem : Count}
    (hf : f = fires b c) (hd : d = drains b c) (hfull : full = (f || (b.outFull && !d)))
    (hrem : rem = if f then b.remain - 1#33 else b.remain) (hcomp : comp = (rem == 0#33 && !full)) :
    SpecBlock.step b c =
      { b with
        outReg := if f then fireResult b c else b.outReg
        outFull := full
        remain := rem
        busy := !comp
        done := comp || b.done } := by
  rw [SpecBlock.step, if_neg (by simp [hr]), SpecBlock.fire_eq_fires b hr, ← drains_eq b hr, ← hf, ← hd]
  subst hcomp hrem hfull
  obtain ⟨g, r, busy, done, err, w, h, count, remain, outReg, outFull⟩ := b
  obtain rfl : busy = true := hb
  cases f with
  | true => simp [fireResult]
  | false =>
    cases d with
    | true => cases hzero : remain == 0#33 <;> simp [hzero]
    | false => cases hzero : remain == 0#33 <;> cases outFull <;> simp [hzero]

/-- R101 while BUSY = 0: the drain, which no reachable idle state has, and then a write. -/
theorem SpecBlock.step_idle (hr : c.rst = false) (hb : b.busy = false) : SpecBlock.step b c =
    if c.writes then SpecBlock.regWrite { b with outFull := b.outFull && !drains b c } c.regAddr.toNat c.regWdata
    else { b with outFull := b.outFull && !drains b c } := by
  have hf : SpecBlock.fire b c = false := by simp [SpecBlock.fire, hb]
  rw [SpecBlock.step, if_neg (by simp [hr]), hf, ← drains_eq b hr]
  generalize drains b c = d
  obtain ⟨g, r, busy, done, err, w, h, count, remain, outReg, outFull⟩ := b
  obtain rfl : busy = false := hb
  cases d with
  | true | false => simp [CycleIn.writes]

end SpecStep

/-- Whatever it writes, a write leaves the outputs, the inputs and the output file alone. -/
theorem State.writeReg_frame (s : State) (reg : Reg) (d : Word) : ∃ b bs ss rs,
    s.writeReg reg d = { s with block := b, bSeq := bs, sSeq := ss, rSeq := rs } := by
  cases reg with
  | ctrl =>
    cases hd : isStartData d with
    | true =>
      by_cases hmode : d.getLsbD 0 = d.getLsbD 1
      · rw [State.writeReg_ctrl_of_start hd, State.startJob_of_illegal hmode]
        exact ⟨_, _, _, _, rfl⟩
      · rw [State.writeReg_ctrl_of_start hd, State.startJob_of_legal hmode]
        exact ⟨_, _, _, _, rfl⟩
    | false =>
      rw [State.writeReg, if_neg (by simp [hd])]
      exact ⟨_, _, _, _, rfl⟩
  | width | height | status | countLo | countHi | remainLo | remainHi => exact ⟨_, _, _, _, rfl⟩

@[simp] theorem State.writeReg_ports (s : State) (reg : Reg) (d : Word) : (s.writeReg reg d).ports = s.ports := by
  obtain ⟨_, _, _, _, h⟩ := s.writeReg_frame reg d; rw [h]

@[simp] theorem State.writeReg_program (s : State) (reg : Reg) (d : Word) : (s.writeReg reg d).program = s.program := by
  obtain ⟨_, _, _, _, h⟩ := s.writeReg_frame reg d; rw [h]

/-- R101 in an idle cycle: the drain, then the write, register by register. -/
theorem step_idle_spec (hr : s.input.rst = false) (hb : s.block.busy = false) :
    ∃ t, step s = .next t ∧ t.block = SpecBlock.step s.block s.input ∧ t.program = s.program.tail := by
  refine ⟨_, step_idle_eq hr hb, ?_⟩
  rw [SpecBlock.step_idle hr hb, ← beginCycle_drain_block, State.advance_block, State.advance_program]
  split
  next =>
    rw [State.writeReg_spec, Reg.index_ofIndex, State.writeReg_program, State.drain_program]
    exact ⟨rfl, rfl⟩
  next => exact ⟨rfl, congrArg List.tail State.drain_program⟩

/-- Settles O35: a reset cycle by definition; a running job's cycle as one record on both sides; an idle cycle by its
drain and then its write. -/
theorem stepIsTheNextStateFunction : Obligations.StepIsTheNextStateFunction := by
  intro s
  cases hr : s.input.rst with
  | true => exact ⟨_, step_reset hr, (if_pos hr).symm, rfl⟩
  | false =>
    cases hb : s.block.busy with
    | true =>
      exact ⟨_, step_busy_eq hr hb rfl rfl rfl rfl rfl, (SpecBlock.step_busy hr hb rfl rfl rfl rfl rfl).symm, rfl⟩
    | false => exact step_idle_spec hr hb

/-! The output function. -/

theorem getLsbD_zero_extend (x : Dim) (bit : Nat) : (x.setWidth 32).getLsbD bit = x.getLsbD bit := by
  rw [BitVec.getLsbD_setWidth]
  by_cases h : bit < 32
  · simp [h]
  · simp [BitVec.getLsbD_of_ge x bit (by omega)]

theorem getLsbD_low_word (x : Count) (bit : Nat) :
    (x.extractLsb' 0 32).getLsbD bit = if bit < 32 then x.getLsbD bit else false := by
  simp

theorem getLsbD_high_word (x : Count) (bit : Nat) :
    ((x.extractLsb' 32 1).setWidth 32).getLsbD bit = if bit = 0 then x.getLsbD 32 else false := by
  cases bit with
  | zero | succ n => simp

theorem Block.ctrlWord_getLsbD (b : Block) (bit : Nat) : b.ctrlWord.getLsbD bit =
    if bit = 0 then b.genBit else if bit = 1 then b.recBit else false := by
  simp only [Block.ctrlWord, BitVec.getLsbD_append, BitVec.getLsbD_ofBool, BitVec.getLsbD_zero]
  match bit with
  | 0 | 1 | 2 | n + 3 => simp

theorem Block.statusWord_getLsbD (b : Block) (bit : Nat) : b.statusWord.getLsbD bit =
    if bit = 0 then b.busy else if bit = 1 then b.done else if bit = 2 then b.errMode else false := by
  simp only [Block.statusWord, BitVec.getLsbD_append, BitVec.getLsbD_ofBool, BitVec.getLsbD_zero]
  match bit with
  | 0 | 1 | 2 | n + 3 => simp

/-- The register values bit by bit (42_register_access.md R107). -/
theorem regRead_getLsbD (b : Block) (reg : Reg) (bit : Nat) :
    (regRead b reg).getLsbD bit = SpecBlock.regReadBit b reg.index.toNat bit := by
  cases reg with
  | ctrl => exact b.ctrlWord_getLsbD bit
  | status => exact b.statusWord_getLsbD bit
  | width => exact getLsbD_zero_extend b.width bit
  | height => exact getLsbD_zero_extend b.height bit
  | countLo => exact getLsbD_low_word b.count bit
  | countHi => exact getLsbD_high_word b.count bit
  | remainLo => exact getLsbD_low_word b.remain bit
  | remainHi => exact getLsbD_high_word b.remain bit

theorem readData_getLsbD (b : Block) (c : CycleIn) (bit : Nat) : (readData b c).getLsbD bit =
    (c.regEn && !c.regWe && SpecBlock.regReadBit b c.regAddr.toNat bit) := by
  unfold readData
  match e : portInstr c with
  | some (.regRead reg d) =>
    obtain ⟨hen, hwe, haddr⟩ := fields_of_portInstr_regRead e
    simp [regRead_getLsbD, hen, hwe, haddr]
  | some (.start d) => simp [(fields_of_portInstr_start e).2.1]
  | some (.regWrite reg d) => simp [(fields_of_portInstr_regWrite e).2.1]
  | none => simp [portInstr_eq_none_iff.1 e]
  | some .diff => exact absurd e (portInstr_ne_sampleOp _).1
  | some .recon => exact absurd e (portInstr_ne_sampleOp _).2

theorem readData_of_writes {b : Block} {c : CycleIn} (h : c.writes = true) : readData b c = 0#32 := by
  have hwe : c.regWe = true := (Bool.and_eq_true_iff.1 h).2
  apply BitVec.eq_of_getLsbD_eq
  intro bit _
  simp [readData_getLsbD, hwe]

/-- The outputs of every cycle but a reset: the job fires only while busy, and a write puts nothing on reg_rdata. -/
theorem step_ports (hr : s.input.rst = false) (h : step s = .next t) : t.ports =
    ⟨fires s.block s.input, fires s.block s.input, s.block.outFull, resultSlot s.block.outReg,
      readData s.block s.input⟩ := by
  cases hb : s.block.busy with
  | true =>
    obtain rfl := Host.Outcome.next.inj ((step_busy_eq hr hb rfl rfl rfl rfl rfl).symm.trans h)
    rfl
  | false =>
    have hf : fires s.block s.input = false := by simp [fires, hb]
    obtain rfl := Host.Outcome.next.inj ((step_idle_eq hr hb).symm.trans h)
    rw [hf, State.advance_ports]
    split
    next hw => rw [readData_of_writes hw, State.writeReg_ports, State.drain_ports, State.beginCycle_ports]
    next => rfl

/-- Bits [15:10] of an output slot are 0 (10_state.md R38). -/
theorem high_resultSlot (r : Sample) : (resultSlot r).extractLsb' 10 6 = 0#6 := by
  apply BitVec.eq_of_getLsbD_eq
  intro k hk
  simp [resultSlot]

theorem specOutputs_reset (b : Block) {c : CycleIn} (hr : c.rst = true) : SpecOutputs b c PortsOut.reset := by
  constructor <;> simp [hr, PortsOut.reset]

/-- Settles O36: a reset cycle's outputs are 0, and every other cycle's are those of `step_ports`. -/
theorem portsFollowTheOutputFunction : Obligations.PortsFollowTheOutputFunction := by
  intro s t h
  cases hr : s.input.rst with
  | true =>
    obtain rfl := Host.Outcome.next.inj ((step_reset hr).symm.trans h)
    exact specOutputs_reset _ hr
  | false =>
    rw [step_ports hr h]
    exact
      { bReady := by simp [hr, SpecBlock.fire_eq_fires]
        sReady := by simp [hr, SpecBlock.fire_eq_fires]
        rValid := by simp [hr]
        rDataHigh := high_resultSlot _
        rDataLow := by simp [hr]
        regRdata := fun bit => by simp [hr, readData_getLsbD] }

end Sys2Proof.Machine
end

section
/-! The frame length (41_stream_transform.md R88, R89). -/

namespace Sys2Proof.Machine

theorem frameCount_eq_zero_iff {w h : Dim} : frameCount w h = 0 ↔ w = 0#16 ∨ h = 0#16 := by
  have hprod : frameCount w h = 0 ↔ w.toNat * h.toNat = 0 := by
    unfold frameCount
    omega
  rw [hprod, Nat.mul_eq_zero, ← BitVec.toNat_inj, ← BitVec.toNat_inj]
  rfl

theorem frameCount_le (w h : Dim) : frameCount w h ≤ 6442254337 := by
  have hw := w.isLt
  have hh := h.isLt
  have hprod : w.toNat * h.toNat ≤ 65535 * 65535 := Nat.mul_le_mul (by omega) (by omega)
  unfold frameCount
  omega

/-- Settles O14: the product of the dimensions decides both ends of the range; the two named counts are evaluated. -/
theorem frameCountRange : Obligations.FrameCountRange :=
  ⟨fun _ _ => frameCount_eq_zero_iff, fun w h => ⟨frameCount_le w h, frameCount_lt w h⟩, rfl, rfl⟩

/-- Settles O15: linear arithmetic in the product of the dimensions. -/
theorem frameCountAgainstThreeHalves : Obligations.FrameCountAgainstThreeHalves := by
  intro w h
  unfold frameCount
  generalize w.toNat * h.toNat = p
  exact ⟨fun _ => by omega, fun _ => by omega⟩

end Sys2Proof.Machine
end

section
/-! DIFF and RECON as a job applies them (41_stream_transform.md R93, R94): each is a fire, if the cycle fires. -/

namespace Sys2Proof.Machine

/-- Settles O26: the cycle fires, with R73's value. -/
theorem diffFires : Obligations.DiffFires := by
  intro s hr hb hrem hB hS hfull
  have hf : fires s.block s.input = true := (fires_iff _ _).2 ⟨hr, hb, hrem, hB, hS, hfull⟩
  exact ⟨_, (exec_diff s).trans (congrArg _ (State.fireIf_of_fires hf)), diff10_toInt _ _, remain_sub_one hrem,
    rfl, rfl, rfl, rfl, rfl, rfl, rfl⟩

/-- Settles O27: the cycle fires, with R76's value. -/
theorem reconFires : Obligations.ReconFires := by
  intro s hr hb hrem hB hS hfull
  have hf : fires s.block s.input = true := (fires_iff _ _).2 ⟨hr, hb, hrem, hB, hS, hfull⟩
  exact ⟨_, (exec_recon s).trans (congrArg _ (State.fireIf_of_fires hf)), recon10_toInt _ _, remain_sub_one hrem,
    rfl, rfl, rfl, rfl, rfl, rfl, rfl⟩

/-- The fire condition fails by any one of its clauses. -/
theorem fires_eq_false_iff (b : Block) (c : CycleIn) : fires b c = false ↔
    c.rst = true ∨ b.busy = false ∨ b.remain = 0#33 ∨ c.bValid = false ∨ c.sValid = false ∨
      (b.outFull = true ∧ c.rReady = false) := by
  rw [← Bool.not_eq_true, fires_iff]
  simp only [not_and_or, not_or, Bool.not_eq_false, Bool.not_eq_true, not_not]

/-- Settles O28: the premise is that the cycle does not fire. -/
theorem sampleOpsWaitWithoutFire : Obligations.SampleOpsWaitWithoutFire := by
  intro s h
  have hf := (fires_eq_false_iff _ _).2 h
  exact ⟨(exec_diff s).trans (congrArg _ (State.fireIf_of_not hf)),
    (exec_recon s).trans (congrArg _ (State.fireIf_of_not hf))⟩

theorem exec_sampleOp {i : Instr} (h : i = .diff ∨ i = .recon) (s : State) : ∃ r, exec i s = .next (s.fireIf r) := by
  obtain rfl | rfl := h
  · exact ⟨_, exec_diff s⟩
  · exact ⟨_, exec_recon s⟩

/-- Settles O29: a fire has this frame, and to wait changes nothing. -/
theorem sampleOpFrame : Obligations.SampleOpFrame := by
  intro i s t hi h
  obtain ⟨r, hr⟩ := exec_sampleOp hi s
  obtain rfl := Host.Outcome.next.inj (hr.symm.trans h)
  cases hf : fires s.block s.input with
  | true =>
    rw [State.fireIf_of_fires hf]
    exact ⟨rfl, fun _ => rfl, rfl, rfl, rfl⟩
  | false =>
    rw [State.fireIf_of_not hf]
    exact ⟨rfl, fun _ => rfl, rfl, rfl, rfl⟩

end Sys2Proof.Machine
end

section
/-! The phases of a cycle (41_stream_transform.md R101; log entry 8) and the instructions that they run. -/

namespace Sys2Proof.Machine

variable {s t u : State}

/-- A cycle that does not reset, phase by phase. -/
theorem step_of_phases (hr : s.input.rst = false) (hport : portPhase s.beginCycle.drain = .next t)
    (hstream : streamPhase s.block.busy t = .next u) : step s = .next (u.complete s.block.busy).advance := by
  rw [step, if_neg (by simp [hr]), hport]
  simp only [andThen, hstream]

/-! The drain before the command leaves the inputs, BUSY and MODE alone. -/

theorem beginCycle_drain_input : s.beginCycle.drain.input = s.input := State.drain_input

theorem beginCycle_drain_busy : s.beginCycle.drain.block.busy = s.block.busy := by rw [beginCycle_drain_block]

theorem beginCycle_drain_mode : s.beginCycle.drain.block.mode = s.block.mode := by rw [beginCycle_drain_block]; rfl

theorem portPhase_of_decode {i : Instr} (hen : s.input.regEn = true)
    (hi : decode (.regport s.input.transaction) = .ok i) :
    portPhase s.beginCycle.drain = exec i s.beginCycle.drain := by
  have hinstr : portInstr s.input = some i := by rw [portInstr, if_pos hen, hi]; rfl
  simp only [portPhase, beginCycle_drain_input, hinstr]

theorem portPhase_of_noAccess (hen : s.input.regEn = false) :
    portPhase s.beginCycle.drain = .next s.beginCycle.drain := by
  simp only [portPhase, beginCycle_drain_input, portInstr_eq_none_iff.2 hen]

/-- While BUSY = 1 a command leaves MODE for the operation to be decoded from. -/
theorem portPhase_busy_mode (hb : s.block.busy = true) (h : portPhase s.beginCycle.drain = .next t) :
    t.block.mode = s.block.mode := by
  obtain rfl := Host.Outcome.next.inj ((portPhase_busy (beginCycle_drain_busy.trans hb)).symm.trans h)
  exact beginCycle_drain_mode

/-- A cycle while idle ends with its command. -/
theorem step_of_portPhase_idle (hr : s.input.rst = false) (hb : s.block.busy = false)
    (hport : portPhase s.beginCycle.drain = .next t) : step s = .next t.advance := by
  have h := step_of_phases hr hport (by rw [hb]; rfl)
  rwa [hb, State.complete_false] at h

/-- In a cycle of a running job its MODE's operation follows the command, and then completion. -/
theorem step_of_portPhase_busy {j : Instr} (hr : s.input.rst = false) (hb : s.block.busy = true)
    (hport : portPhase s.beginCycle.drain = .next t) (hj : decode (.mode s.block.mode) = .ok j)
    (hu : exec j t = .next u) : step s = .next (u.complete true).advance := by
  have hinstr : jobInstr t.block = j := jobInstr_of_decode (portPhase_busy_mode hb hport ▸ hj)
  have h := step_of_phases hr hport (u := u) (by rw [hb, streamPhase, if_pos rfl, hinstr, hu])
  rwa [hb] at h

/-- Settles O34: the four cases are an access or none, in an idle cycle or in one of a running job. -/
theorem stepRunsDecodedInstructions : Obligations.StepRunsDecodedInstructions := fun _ hr =>
  ⟨fun _ _ hen hi ht hb => step_of_portPhase_idle hr hb ((portPhase_of_decode hen hi).trans ht),
    fun _ _ _ _ hen hi ht hb hj hu => step_of_portPhase_busy hr hb ((portPhase_of_decode hen hi).trans ht) hj hu,
    fun _ _ hen hb hj hu => step_of_portPhase_busy hr hb (portPhase_of_noAccess hen) hj hu,
    fun hen hb => step_of_portPhase_idle hr hb (portPhase_of_noAccess hen)⟩

end Sys2Proof.Machine
end

section
/-! What a cycle does to the counters and the stream records (41_stream_transform.md R94 to R100). -/

namespace Sys2Proof.Machine

variable {s t : State}

theorem drains_iff (b : Block) (c : CycleIn) : drains b c = true ↔
    c.rst = false ∧ b.outFull = true ∧ c.rReady = true := by
  simp [drains, and_assoc]

/-- Settles O40: a full buffer means a running job (R33), whose cycle without r_ready neither drains nor fires. -/
theorem drainHandsOverTheResult : Obligations.DrainHandsOverTheResult := by
  intro s t hidle hr hfull h
  have hb : s.block.busy = true := by
    cases hb : s.block.busy with
    | true => rfl
    | false => exact absurd hfull (by simp [(hidle hb).2])
  obtain rfl := Host.Outcome.next.inj ((step_busy_eq hr hb rfl rfl rfl rfl rfl).symm.trans h)
  refine ⟨hfull, resultSlot_toNat _, fun hrr => ?_, fun hrr => ?_⟩
  · have hd : drains s.block s.input = true := (drains_iff _ _).2 ⟨hr, hfull, hrr⟩
    simp [hd]
  · have hd : drains s.block s.input = false := by simp [drains, hrr]
    have hf : fires s.block s.input = false := by simp [fires, hfull, hrr]
    simp [hd, hf, hfull]

/-- A running job's cycle counts: a fire takes 1 from REMAIN, and COUNT stays. -/
theorem step_busy_counts (hr : s.input.rst = false) (hb : s.block.busy = true) (h : step s = .next t) :
    t.block.count = s.block.count ∧
    t.block.remain = if fires s.block s.input then s.block.remain - 1#33 else s.block.remain := by
  obtain rfl := Host.Outcome.next.inj ((step_busy_eq hr hb rfl rfl rfl rfl rfl).symm.trans h)
  exact ⟨rfl, rfl⟩

/-- An idle cycle latches COUNT and REMAIN if it accepts a START, and else leaves them alone. -/
theorem step_idle_counts (hr : s.input.rst = false) (hb : s.block.busy = false) (h : step s = .next t) :
    (acceptsStart s ∧ t.block.count = frameCountWord s.block.width s.block.height ∧
      t.block.remain = frameCountWord s.block.width s.block.height) ∨
    (¬ acceptsStart s ∧ t.block.count = s.block.count ∧ t.block.remain = s.block.remain) := by
  obtain rfl := Host.Outcome.next.inj ((step_idle hr hb).symm.trans h)
  match e : portInstr s.input with
  | some (.start d) =>
    by_cases hd : d.getLsbD 0 = d.getLsbD 1
    · refine .inr ⟨not_acceptsStart fun d' hp => ?_, ?_⟩
      · obtain rfl : d = d' := by simpa [e] using hp
        exact hd
      · simp [State.startJob_of_illegal hd, beginCycle_drain_block]
    · exact .inl ⟨⟨hr, hb, d, e, hd⟩, by simp [State.startJob_of_legal hd, beginCycle_drain_block]⟩
  | some (.regWrite reg d) =>
    refine .inr ⟨not_acceptsStart fun d' hp => absurd (e.symm.trans hp) nofun, ?_⟩
    simp [State.writeReg_of_wf (wf_of_portInstr e), beginCycle_drain_block]
  | none | some (.regRead reg d) | some .diff | some .recon =>
    refine .inr ⟨not_acceptsStart fun d' hp => absurd (e.symm.trans hp) nofun, ?_⟩
    simp [beginCycle_drain_block]

/-- Settles O46: a fire needs BUSY = 1 and an accepted START BUSY = 0, so a cycle has at most one of the writers. -/
theorem countAndRemainWriters : Obligations.CountAndRemainWriters := by
  intro s t h hr
  cases hb : s.block.busy with
  | true =>
    obtain ⟨hcount, hremain⟩ := step_busy_counts hr hb h
    have hacc : ¬ acceptsStart s := fun ⟨_, hidle, _⟩ => absurd hb (by simp [hidle])
    refine ⟨fun ha => absurd ha hacc, fun _ => hcount, fun hf => ?_, fun _ hf => by simpa [hf] using hremain⟩
    obtain ⟨-, -, hrem, -⟩ := (fires_iff _ _).1 hf
    rw [hremain, if_pos hf, remain_sub_one hrem]
  | false =>
    have hf : fires s.block s.input = false := by simp [fires, hb]
    obtain ⟨hacc, hcount, hremain⟩ | ⟨hacc, hcount, hremain⟩ := step_idle_counts hr hb h
    · have hlatched : t.block.count.toNat = frameCount s.block.width s.block.height := by
        rw [hcount, frameCountWord_toNat]
      exact ⟨fun _ => ⟨hlatched, hremain.trans hcount.symm⟩, fun ha => absurd hacc ha,
        fun hf' => absurd hf' (by simp [hf]), fun ha => absurd hacc ha⟩
    · exact ⟨fun ha => absurd ha hacc, fun _ => hcount, fun hf' => absurd hf' (by simp [hf]), fun _ _ => hremain⟩

/-- In a cycle that does not fire no slot joins stream B or S; a reset or an accepted START empties both. -/
theorem step_inputs_of_not_fires (hs : JobInv s) (hf : fires s.block s.input = false) (h : step s = .next t) :
    (t.bSeq = s.bSeq ∧ t.sSeq = s.sSeq) ∨ (t.bSeq = [] ∧ t.sSeq = []) := by
  cases hr : s.input.rst with
  | true =>
    obtain rfl := Host.Outcome.next.inj ((step_reset hr).symm.trans h)
    exact .inr ⟨rfl, rfl⟩
  | false =>
    cases hb : s.block.busy with
    | true =>
      obtain rfl := Host.Outcome.next.inj ((step_busy_eq hr hb hf.symm rfl rfl rfl rfl).symm.trans h)
      exact .inl ⟨rfl, rfl⟩
    | false =>
      obtain ⟨d, -, -, rfl⟩ | ⟨d, -, -, rfl⟩ | ⟨-, g, r, w, v, p, rfl⟩ :=
        step_idle_cases hr hb (hs.idleEmpty hb).2 h
      · exact .inr ⟨rfl, rfl⟩
      · exact .inl ⟨rfl, rfl⟩
      · exact .inl ⟨rfl, rfl⟩

/-- The readies are the fire condition, in a reset cycle too. -/
theorem step_ready (h : step s = .next t) :
    t.ports.bReady = fires s.block s.input ∧ t.ports.sReady = fires s.block s.input := by
  cases hr : s.input.rst with
  | true =>
    obtain rfl := Host.Outcome.next.inj ((step_reset hr).symm.trans h)
    simp [fires, hr, PortsOut.reset]
  | false =>
    rw [step_ports hr h]
    exact ⟨rfl, rfl⟩

/-- Settles O47: such a cycle does not fire. -/
theorem surplusInputIsNotTaken : Obligations.SurplusInputIsNotTaken := by
  intro s t hs hidle h
  have hf : fires s.block s.input = false :=
    (fires_eq_false_iff _ _).2 (.inr (hidle.imp id .inl))
  obtain ⟨hbr, hsr⟩ := step_ready h
  refine ⟨hbr.trans hf, hsr.trans hf, ?_⟩
  obtain ⟨hB, hS⟩ | ⟨hB, hS⟩ := step_inputs_of_not_fires hs hf h
  · exact ⟨by rw [hB], by rw [hS]⟩
  · exact ⟨by simp [hB], by simp [hS]⟩

/-- A job's last cycle finds the last result waiting and hands it over (41_stream_transform.md R97). -/
theorem lastResult_of_step_completes (hs : JobInv s) (hr : s.input.rst = false) (hb : s.block.busy = true)
    (h : step s = .next t) (ht : t.block.busy = false) :
    s.block.remain = 0#33 ∧ s.block.outFull = true ∧ s.input.rReady = true := by
  obtain ⟨hrem, hfull⟩ := (step_busy_status hr hb h).1.1 ht
  obtain rfl := Host.Outcome.next.inj ((step_busy_eq hr hb rfl rfl rfl rfl rfl).symm.trans h)
  obtain ⟨hf, hheld⟩ : fires s.block s.input = false ∧ (s.block.outFull && !drains s.block s.input) = false :=
    Bool.or_eq_false_iff.1 hfull
  have hrem' : s.block.remain = 0#33 := by simpa [hf] using hrem
  have hfull' : s.block.outFull = true := (hs.busyWork hb).resolve_left (not_not_intro hrem')
  have hd : drains s.block s.input = true := by simpa [hfull'] using hheld
  exact ⟨hrem', hfull', ((drains_iff _ _).1 hd).2.2⟩

/-- Everything is transferred exactly if nothing is left. -/
theorem JobInv.delivered_all_iff (h : JobInv s) :
    s.rSeq.length = s.block.count.toNat ↔ s.block.remain = 0#33 ∧ s.block.outFull = false := by
  have hB := h.acceptedB
  have hR := h.delivered
  rw [← BitVec.toNat_inj]
  cases hfull : s.block.outFull with
  | true =>
    rw [hfull, Bool.toNat_true] at hR
    simp only [Bool.true_eq_false, and_false, iff_false]
    omega
  | false =>
    rw [hfull, Bool.toNat_false] at hR
    simp only [and_true, BitVec.toNat_ofNat]
    omega

/-- Settles O42: a job ends with nothing left, so all of COUNT is accepted and delivered, and the result that waited in its
last cycle is the last one of the job. -/
theorem completionDeliversTheWholeFrame : Obligations.CompletionDeliversTheWholeFrame := by
  intro s t hs hr hb h
  have ht := stepKeepsJobInv s t hs h
  have hcount : t.block.count.toNat = frameCount s.block.width s.block.height := by
    rw [(step_busy_counts hr hb h).1, hs.busyCount hb]
  obtain ⟨hbusy, hdone, -⟩ := step_busy_status hr hb h
  refine ⟨by rw [hbusy, ← hcount, ht.delivered_all_iff], fun hend => ?_⟩
  obtain ⟨hrem, hfull, hrr⟩ := lastResult_of_step_completes hs hr hb h hend
  have hlen : t.rSeq.length = t.block.count.toNat := ht.delivered_all_iff.2 (hbusy.1 hend)
  have hB : t.bSeq.length = t.block.count.toNat := by
    have hdel := ht.delivered
    rw [(hbusy.1 hend).2, Bool.toNat_false, hlen] at hdel
    exact hdel.symm
  have hresults : t.rSeq = List.zipWith (pairResult s.block.mode) t.bSeq t.sSeq := by
    obtain ⟨p, m, hlast⟩ := step_lastDrain hb hrem hfull hr hrr
    obtain rfl := Host.Outcome.next.inj (hlast.symm.trans h)
    have hres := hs.results hb
    rwa [Block.pending, if_pos hfull] at hres
  exact ⟨hdone.2 (.inl hend), hrem, hfull, hrr, hB.trans hcount, ht.acceptedS.trans (hB.trans hcount), hresults⟩

end Sys2Proof.Machine
end

section
/-! A job that the host starves of input (41_stream_transform.md R99). -/

namespace Sys2Proof.Machine

variable {s t : State} {offers : CycleIn → Bool}

theorem exists_step (s : State) : ∃ t, step s = .next t := by
  obtain ⟨t, h, -⟩ := stepIsTheNextStateFunction s
  exact ⟨t, h⟩

theorem step_program (h : step s = .next t) : t.program = s.program.tail := by
  obtain ⟨t', h', -, hprog⟩ := stepIsTheNextStateFunction s
  obtain rfl := Host.Outcome.next.inj (h'.symm.trans h)
  exact hprog

theorem input_rst_of_program (h : ∀ c ∈ s.program, c.rst = false) : s.input.rst = false := by
  cases hprog : s.program with
  | nil => simp [State.input, hprog, CycleIn.idle]
  | cons c cs => rw [State.input_of_program hprog]; exact h c (by simp [hprog])

/-- A fire uses up one of the placed inputs that offer what a fire needs; past their end the host is idle. -/
theorem countP_tail_of_fires (hoffers : ∀ b c, fires b c = true → offers c = true)
    (hf : fires s.block s.input = true) : s.program.tail.countP offers + 1 = s.program.countP offers := by
  cases hprog : s.program with
  | nil => exact absurd hf (by simp [State.input, hprog, fires, CycleIn.idle])
  | cons c cs =>
    rw [State.input_of_program hprog] at hf
    rw [List.tail_cons, List.countP_cons_of_pos (hoffers _ _ hf)]

/-- A running job with more pairs to come than the placed inputs offer slots on one stream, and no reset among them. -/
structure Starved (offers : CycleIn → Bool) (s : State) : Prop where
  inv : JobInv s
  busy : s.block.busy = true
  noReset : ∀ c ∈ s.program, c.rst = false
  short : s.program.countP offers < s.block.remain.toNat

theorem Starved.remain_ne_zero (h : Starved offers s) : s.block.remain ≠ 0#33 := by
  intro hzero
  simpa [hzero] using h.short

/-- Each cycle keeps a job starved: a fire uses up one pair to come and one offered slot, and nothing else adds to either
side. -/
theorem Starved.of_step (hoffers : ∀ b c, fires b c = true → offers c = true) (h : Starved offers s)
    (hstep : step s = .next t) : Starved offers t := by
  have hr := input_rst_of_program h.noReset
  have hprog := step_program hstep
  have hremain := (step_busy_counts hr h.busy hstep).2
  have hshort : t.program.countP offers < t.block.remain.toNat := by
    have hlt := h.short
    rw [hprog, hremain]
    cases hf : fires s.block s.input with
    | true =>
      have hused := countP_tail_of_fires hoffers hf
      have hsub := remain_sub_one h.remain_ne_zero
      rw [if_pos rfl]
      omega
    | false =>
      rw [if_neg (by simp)]
      exact Nat.lt_of_le_of_lt (List.tail_sublist _).countP_le hlt
  have hne : t.block.remain ≠ 0#33 := by
    intro hzero
    simp [hzero] at hshort
  exact
    { inv := stepKeepsJobInv s t h.inv hstep
      busy := by
        rw [← Bool.not_eq_false]
        exact fun hend => hne ((step_busy_status hr h.busy hstep).1.1 hend).1
      noReset := fun c hc => h.noReset c (List.mem_of_mem_tail (hprog ▸ hc))
      short := hshort }

theorem Starved.exists_reaches (hoffers : ∀ b c, fires b c = true → offers c = true) (k : Nat) :
    ∀ {s : State}, Starved offers s → ∃ t, reaches k s t ∧ Starved offers t := by
  induction k with
  | zero => exact fun {s} h => ⟨s, (reaches_zero s).2 rfl, h⟩
  | succ k ih =>
    intro s h
    obtain ⟨u, hstep⟩ := exists_step s
    obtain ⟨t, hreach, ht⟩ := ih (h.of_step hoffers hstep)
    exact ⟨t, (reaches_succ hstep).2 hreach, ht⟩

theorem bValid_of_fires (b : Block) (c : CycleIn) (hf : fires b c = true) : c.bValid = true := by
  obtain ⟨-, -, -, hB, -⟩ := (fires_iff _ _).1 hf
  exact hB

theorem sValid_of_fires (b : Block) (c : CycleIn) (hf : fires b c = true) : c.sValid = true := by
  obtain ⟨-, -, -, -, hS, -⟩ := (fires_iff _ _).1 hf
  exact hS

/-- A starved job waits: it has pairs to come, and a running job has recorded neither an end nor an error. -/
theorem Starved.waits (hoffers : ∀ b c, fires b c = true → offers c = true) (h : Starved offers s) (k : Nat) :
    ∃ t, reaches k s t ∧ t.block.busy = true ∧ t.block.remain ≠ 0#33 ∧ t.block.errMode = false ∧
      t.block.done = false := by
  obtain ⟨t, hreach, ht⟩ := Starved.exists_reaches hoffers k h
  obtain ⟨hdone, herr⟩ := ht.inv.running_flags ht.busy
  exact ⟨t, hreach, ht.busy, ht.remain_ne_zero, herr, hdone⟩

/-- Settles O49: a job starved on either stream stays starved, by induction on the number of cycles. -/
theorem shortInputWaitsForEver : Obligations.ShortInputWaitsForEver := by
  intro s hs hb hr hshort k
  obtain hB | hS := hshort
  · exact Starved.waits bValid_of_fires ⟨hs, hb, hr, hB⟩ k
  · exact Starved.waits sValid_of_fires ⟨hs, hb, hr, hS⟩ k

end Sys2Proof.Machine
end

section
/-! The timing of a job that nothing stalls (41_stream_transform.md R104). -/

namespace Sys2Proof.Machine

variable {s t : State}

/-- A served cycle ends with its own result waiting, so after at least one of them the result buffer is full. -/
theorem exists_servedBy_full {cs rest : List CycleIn} {c : CycleIn} (hcs : ∀ x ∈ cs ++ [c], x.offersAndTakes = true)
    (hs : JobInv s) (hb : s.block.busy = true) (hprog : s.program = cs ++ c :: rest)
    (hlen : cs.length < s.block.remain.toNat) : ∃ t, ServedBy (cs ++ [c]) s t ∧ t.block.outFull = true := by
  obtain ⟨hcs, hc⟩ := List.forall_mem_append.1 hcs
  rw [List.forall_mem_singleton] at hc
  obtain ⟨u, hu⟩ := exists_servedBy cs hcs hs hb hprog hlen.le
  have hrem : u.block.remain ≠ 0#33 := by
    intro hzero
    have hleft := hu.remain
    rw [hzero, BitVec.toNat_zero] at hleft
    omega
  have hnext : u.program = c :: rest := (List.append_cancel_left (hprog.symm.trans hu.program)).symm
  obtain ⟨t, ht, -⟩ := ServedBy.single hu.inv hu.busy hrem hnext hc
  obtain rfl := State.input_of_program hnext
  obtain ⟨r, done, p, rs, m, hstep⟩ := step_served hu.busy hrem hc
  obtain rfl := Host.Outcome.next.inj ((reaches_one hstep).symm.trans ht.reached)
  exact ⟨_, hu.trans ht, rfl⟩

/-- A job that nothing stalls, `k` cycles after its START: `k` pairs taken, all but the last delivered. -/
theorem unstalled_after {cs rest : List CycleIn} (hs : JobInv s) (hb : s.block.busy = true) (hB : s.bSeq = [])
    (hprog : s.program = cs ++ rest) (hcs : ∀ c ∈ cs, c.offersAndTakes = true)
    (hrem : s.block.remain.toNat = cs.length) {k : Nat} (hk : k ≤ cs.length) :
    ∃ t, reaches k s t ∧ t.block.busy = true ∧ t.block.done = false ∧
      t.block.remain.toNat = cs.length - k ∧ t.rSeq.length = k - 1 := by
  cases k with
  | zero =>
    have hdel := hs.delivered
    rw [hB, List.length_nil] at hdel
    exact ⟨s, (reaches_zero s).2 rfl, hb, (hs.running_flags hb).1, hrem, by omega⟩
  | succ k =>
    have hsplit : cs = cs.take k ++ cs[k] :: cs.drop (k + 1) := by simp
    have htake : cs.take k ++ [cs[k]] = cs.take (k + 1) := by simp
    have hlen : (cs.take k ++ [cs[k]]).length = k + 1 := by rw [htake, List.length_take]; omega
    obtain ⟨t, ht, hfull⟩ := exists_servedBy_full (cs := cs.take k) (c := cs[k]) (rest := cs.drop (k + 1) ++ rest)
      (fun x hx => hcs x (List.mem_of_mem_take (htake ▸ hx))) hs hb
      (hprog.trans (by rw [← List.cons_append, ← List.append_assoc, ← hsplit])) (by rw [List.length_take]; omega)
    have hreach := ht.reached
    have hleft := ht.remain
    have hdel := ht.inv.delivered
    rw [ht.bSeq, hB, List.nil_append, List.length_map, hfull, Bool.toNat_true] at hdel
    rw [hlen] at hreach hleft hdel
    exact ⟨t, hreach, ht.busy, (ht.inv.running_flags ht.busy).1, by omega, by omega⟩

/-- Settles O52: the START latches N, then one fire per cycle, each after a drain but the first, and the last drain. -/
theorem unstalledJobTakesNPlusTwoCycles : Obligations.UnstalledJobTakesNPlusTwoCycles := by
  intro s data c₀ d cs rest hs hb hprog hr₀ hp hdata hpos hlen hcs hr hrr
  have hne : frameCount s.block.width s.block.height ≠ 0 := by omega
  refine ⟨fun k hk => ?_, ?_⟩
  · obtain rfl : s.input = c₀ := State.input_of_program hprog
    have hstart := step_acceptStart hr₀ hb (hs.idleEmpty hb).2 hp hdata
    have hbusy : (s.beginCycle.storeMode data).acceptStart.advance.block.busy = true := by
      simpa [frameCountWord_eq_zero] using hne
    obtain ⟨t, hreach, ht⟩ := unstalled_after (stepKeepsJobInv _ _ hs hstart) hbusy rfl (congrArg List.tail hprog)
      hcs ((frameCountWord_toNat _ _).trans hlen.symm) hk
    exact ⟨t, (reaches_succ hstart).2 hreach, ht⟩
  · obtain ⟨t, hreach, hdel, -, -, hrest⟩ := exists_servedJob hs hb hprog hr₀ hp hdata hlen hne hcs hr hrr
    refine ⟨t, hreach, hdel.inv.doneIdle hdel.done, hdel.done, ?_, hrest⟩
    rw [hdel.rSeq, List.zipWith_map, List.zipWith_self]

end Sys2Proof.Machine
end

section
/-! The register port (42_register_access.md R106 to R115): each command's effect, a busy block's deafness to writes,
and a read in the cycle after a write. -/

namespace Sys2Proof.Machine

variable {s t u : State}

/-- Settles O19: the value is `regRead`'s, whose bits are the register table's. -/
theorem regReadReturnsTheRegister : Obligations.RegReadReturnsTheRegister := fun reg d s =>
  ⟨regRead s.block reg, exec_regRead reg d s, regRead_getLsbD s.block reg⟩

/-! The write commands, by BUSY as it stands when they run (42_register_access.md R109). -/

theorem exec_regWrite_of_busy (hb : s.block.busy = true) (reg : Reg) (d : Word) :
    exec (.regWrite reg d) s = .next s := by
  rw [exec_regWrite, if_pos hb]

theorem exec_start_of_busy (hb : s.block.busy = true) (d : Word) : exec (.start d) s = .next s := by
  rw [exec_start, if_pos hb]

theorem exec_regWrite_of_idle (hb : s.block.busy = false) (reg : Reg) (d : Word) :
    exec (.regWrite reg d) s = .next (s.writeReg reg d) := by
  rw [exec_regWrite, if_neg (by simp [hb])]

theorem exec_start_of_idle (hb : s.block.busy = false) (d : Word) : exec (.start d) s = .next (s.startJob d) := by
  rw [exec_start, if_neg (by simp [hb])]

/-- Settles O23: both commands are guarded by BUSY. -/
theorem writesIgnoredWhileBusy : Obligations.WritesIgnoredWhileBusy := fun reg d _ hb =>
  ⟨exec_regWrite_of_busy hb reg d, exec_start_of_busy hb d⟩

theorem State.writeReg_ctrl_of_no_start {d : Word} (h : isStartData d = false) (s : State) :
    s.writeReg .ctrl d = s.storeMode d :=
  if_neg (by simp [h])

/-- Settles O20: the write that an idle block makes, register by register. -/
theorem regWriteWhileIdle : Obligations.RegWriteWhileIdle := by
  intro d s hb
  simp only [exec_regWrite_of_idle hb, exec_start_of_idle hb]
  refine ⟨fun hstart => ?_, fun hstart => ?_, ?_, ?_, ?_⟩
  · rw [State.writeReg_ctrl_of_start hstart]
  · rw [State.writeReg_ctrl_of_no_start hstart]
    rfl
  · rw [← dataDim_eq]
    rfl
  · rw [← dataDim_eq]
    rfl
  · rintro reg (rfl | rfl | rfl | rfl | rfl) <;> rfl

theorem frameCountWord_beq_zero (w h : Dim) : (frameCountWord w h == 0#33) = decide (frameCount w h = 0) := by
  rw [Bool.eq_iff_iff, beq_iff_eq, decide_eq_true_iff, frameCountWord_eq_zero]

/-- Settles O21: with a legal MODE the START is accepted, and COUNT's word holds the exact frame length. -/
theorem startAccepted : Obligations.StartAccepted := by
  intro d s hb hd
  have hcount := frameCountWord_toNat s.block.width s.block.height
  refine ⟨_, (exec_start_of_idle hb d).trans (congrArg _ (State.startJob_of_legal hd s)), hcount, hcount, ?_,
    rfl, rfl, rfl⟩
  simp [dataGen, dataRec, bne, frameCountWord_beq_zero]

/-- Settles O22: with an illegal MODE the START raises ModeError, and the block it leaves is idle. -/
theorem startRejectedRaisesModeError : Obligations.StartRejectedRaisesModeError := by
  intro d s hb hd
  refine ⟨_, (exec_start_of_idle hb d).trans (congrArg _ (State.startJob_of_illegal hd s)), rfl,
    fun c => ⟨?_, fun hf => ?_⟩⟩
  · simp [fires, hb]
  · simp [drains, hf]

/-! A cycle of a running job without its write. -/

theorem readData_noAccess (b : Block) (c : CycleIn) : readData b c.noAccess = 0#32 := by
  have hnone : portInstr c.noAccess = none := portInstr_eq_none_iff.2 rfl
  rw [readData, hnone]

/-- Settles O43: a reset cycle reads no access, and a running job's cycle as one record reads it for reg_rdata only,
which a write leaves 0. -/
theorem busyCycleIgnoresWrites : Obligations.BusyCycleIgnoresWrites := by
  intro s hb hw
  cases hr : s.input.rst with
  | true =>
    rw [step_reset hr, step_reset (s := s.withInput s.input.noAccess) hr]
    rfl
  | false =>
    rw [step_busy_eq hr hb rfl rfl rfl rfl rfl,
      step_busy_eq (s := s.withInput s.input.noAccess) hr hb rfl rfl rfl rfl rfl,
      State.withInput_block, State.withInput_input, readData_of_writes hw, readData_noAccess]
    rfl

/-! What the registers read after a write. -/

theorem dataDim_toNat (d : Word) : (dataDim d).toNat = d.toNat % 2 ^ 16 := by
  rw [dataDim_eq, BitVec.toNat_setWidth]

theorem dataMode_toNat (d : Word) : (dataMode d).toNat = d.toNat % 4 := by
  simp [dataMode]

/-- A dimension is read back as it was written, zero-extended. -/
theorem regRead_writeReg_dim {reg : Reg} (hreg : reg = .width ∨ reg = .height) (s : State) (d : Word) :
    (regRead (s.writeReg reg d).block reg).toNat = d.toNat % 2 ^ 16 := by
  have hread : ((dataDim d).setWidth 32).toNat = d.toNat % 2 ^ 16 := by
    rw [BitVec.toNat_setWidth_of_le (by decide), dataDim_toNat]
  obtain rfl | rfl := hreg
  · exact hread
  · exact hread

/-- CTRL is read as MODE, zero-extended: START reads 0. -/
theorem Block.ctrlWord_toNat (b : Block) : b.ctrlWord.toNat = b.mode.toNat := by
  rw [Block.ctrlWord, Block.mode]
  cases b.genBit <;> cases b.recBit <;> rfl

/-- START stores DATA[1:0] as MODE, legal or not (42_register_access.md R111). -/
theorem State.startJob_mode (s : State) (d : Word) : (s.startJob d).block.mode = dataMode d := by
  rw [← State.storeMode_mode (s := s)]
  by_cases hd : d.getLsbD 0 = d.getLsbD 1
  · rw [State.startJob_of_illegal hd]
    rfl
  · rw [State.startJob_of_legal hd]
    rfl

/-- STATUS after a START that finds the block idle. -/
theorem State.startJob_statusWord (hb : s.block.busy = false) (d : Word) : (s.startJob d).block.statusWord =
    if d.getLsbD 0 = d.getLsbD 1 then 4#32
    else if frameCount s.block.width s.block.height = 0 then 2#32 else 1#32 := by
  by_cases hd : d.getLsbD 0 = d.getLsbD 1
  · rw [State.startJob_of_illegal hd, if_pos hd]
    simp [Block.statusWord, hb]
  · rw [State.startJob_of_legal hd, if_neg hd]
    by_cases h : frameCount s.block.width s.block.height = 0
    · simp [Block.statusWord, bne, frameCountWord_beq_zero, h]
    · simp [Block.statusWord, bne, frameCountWord_beq_zero, h]

/-! A write's cycle and a read's cycle. -/

/-- An idle cycle leaves the block that its command leaves. -/
theorem step_idle_command (hr : s.input.rst = false) (hb : s.block.busy = false) {i : Instr}
    (hp : portInstr s.input = some i) (hi : exec i s.beginCycle.drain = .next u) (h : step s = .next t) :
    t.block = u.block := by
  have hport : portPhase s.beginCycle.drain = .next u := by simp only [portPhase, beginCycle_drain_input, hp, hi]
  obtain rfl := Host.Outcome.next.inj ((step_of_portPhase_idle hr hb hport).symm.trans h)
  rfl

/-- A read gives the register as the cycle before left it, whether or not a job runs. -/
theorem step_regRead (hr : t.input.rst = false) {reg : Reg} (hp : ∃ d, portInstr t.input = some (.regRead reg d))
    (h : step t = .next u) : u.ports.regRdata = regRead t.block reg := by
  obtain ⟨d, hp⟩ := hp
  rw [step_ports hr h]
  simp only [readData, hp]

/-- Settles O48: the block that the write's cycle leaves is the one that the read's cycle reads. -/
theorem readInTheNextCycleSeesTheWrite : Obligations.ReadInTheNextCycleSeesTheWrite := by
  intro s t u imm c c' rest hb hprog hr hr' hst htu
  obtain rfl := State.input_of_program hprog
  obtain rfl : t.input = c' := State.input_of_program ((step_program hst).trans (congrArg List.tail hprog))
  have hb' : s.beginCycle.drain.block.busy = false := beginCycle_drain_busy.trans hb
  have hwrite : ∀ reg, portInstr s.input = some (.regWrite reg imm) →
      t.block = (s.beginCycle.drain.writeReg reg imm).block := fun reg hp =>
    step_idle_command hr hb hp (exec_regWrite_of_idle hb' reg imm) hst
  have hstart : portInstr s.input = some (.start imm) → t.block = (s.beginCycle.drain.startJob imm).block := fun hp =>
    step_idle_command hr hb hp (exec_start_of_idle hb' imm) hst
  refine ⟨fun r hreg hw hread => ?_, fun hw hread => ?_, fun hw hread => ?_, fun hw hread => ?_⟩
  · rw [step_regRead hr' hread htu, hwrite _ hw, regRead_writeReg_dim hreg]
  · have hno : isStartData imm = false := by simpa [Instr.wf] using wf_of_portInstr hw
    rw [step_regRead hr' hread htu, hwrite _ hw, State.writeReg_ctrl_of_no_start hno, regRead,
      Block.ctrlWord_toNat, State.storeMode_mode, dataMode_toNat]
  · rw [step_regRead hr' hread htu, hstart hw, regRead, Block.ctrlWord_toNat, State.startJob_mode, dataMode_toNat]
  · rw [step_regRead hr' hread htu, hstart hw, regRead, State.startJob_statusWord hb', beginCycle_drain_block]

end Sys2Proof.Machine
end

section
/-! Reset from any state (70_reset_and_hazards.md R129), progress of a served job (R138, R139), and REMAIN read in two
halves while it falls (R136). -/

namespace Sys2Proof.Machine

variable {s t u : State} {j k : Nat}

/-- Settles O33: a reset cycle's record is written out in the model. -/
theorem resetCycleFromAnyState : Obligations.ResetCycleFromAnyState :=
  fun _ hr => ⟨_, step_reset hr, rfl, rfl, rfl, rfl⟩

/-- Settles O50: a served cycle is a fire while pairs are to come, and the last drain after that. -/
theorem servedCycleMakesProgress : Obligations.ServedCycleMakesProgress := by
  intro s t hs hb hc h
  refine ⟨fun hrem => ?_, fun hrem => ?_⟩
  · obtain ⟨r, done, p, rs, m, hfire⟩ := step_served hb hrem hc
    obtain rfl := Host.Outcome.next.inj (hfire.symm.trans h)
    exact ⟨remain_sub_one hrem, rfl, rfl⟩
  · obtain ⟨hr, -, -, hrr⟩ := CycleIn.offersAndTakes_iff.1 hc
    have hfull : s.block.outFull = true := (hs.busyWork hb).resolve_left (not_not_intro hrem)
    obtain ⟨p, m, hdrain⟩ := step_lastDrain hb hrem hfull hr hrr
    obtain rfl := Host.Outcome.next.inj (hdrain.symm.trans h)
    exact ⟨List.length_append, rfl, rfl⟩

/-- REMAIN never rises while a job runs. -/
theorem step_busy_remain_le (hr : s.input.rst = false) (hb : s.block.busy = true) (h : step s = .next t) :
    t.block.remain.toNat ≤ s.block.remain.toNat := by
  rw [(step_busy_counts hr hb h).2]
  split
  next hf =>
    obtain ⟨-, -, hrem, -⟩ := (fires_iff _ _).1 hf
    have hsub := remain_sub_one hrem
    omega
  next => exact le_rfl

/-! Completion under service. -/

theorem State.nextInputs_succ (h : step s = .next t) (k : Nat) :
    s.nextInputs (k + 1) = s.input :: t.nextInputs k := by
  rw [State.nextInputs, State.nextInputs, step_program h, List.range_succ_eq_map, List.map_cons, List.map_map]
  cases hprog : s.program with
  | nil | cons c cs => simp [State.input, hprog, Function.comp_def]

/-- A cycle that leaves the job running pays for one unit of its remaining work if the host served it, and adds none if
not. -/
theorem workLeft_le_of_step (hs : JobInv s) (hb : s.block.busy = true) (hr : s.input.rst = false)
    (h : step s = .next t) (ht : t.block.busy = true) {n : Nat}
    (hwork : s.block.workLeft ≤ n + if s.input.offersAndTakes then 1 else 0) : t.block.workLeft ≤ n := by
  unfold Block.workLeft at *
  cases hc : s.input.offersAndTakes with
  | true =>
    obtain ⟨hfire, hlast⟩ := servedCycleMakesProgress s t hs hb hc h
    have hrem : s.block.remain ≠ 0#33 := by
      intro hzero
      obtain ⟨-, hend, -⟩ := hlast hzero
      simp [hend] at ht
    obtain ⟨hpaid, -⟩ := hfire hrem
    rw [hc, if_pos rfl] at hwork
    omega
  | false =>
    have hle := step_busy_remain_le hr hb h
    rw [hc, if_neg Bool.false_ne_true] at hwork
    omega

/-- Settles O51, by induction on the cycles: each one ends the job or leaves enough served cycles for the rest of it. -/
theorem servedJobCompletes : Obligations.ServedJobCompletes := by
  intro s k
  induction k generalizing s with
  | zero =>
    intro _ _ _ hwork
    exact absurd hwork (Nat.not_succ_le_zero _)
  | succ k ih =>
    intro hs hb hnr hwork
    obtain ⟨t, h⟩ := exists_step s
    rw [State.nextInputs_succ h] at hnr hwork
    obtain ⟨hr, hnr⟩ := List.forall_mem_cons.1 hnr
    cases ht : t.block.busy with
    | false =>
      obtain ⟨-, hdone, -⟩ := step_busy_status hr hb h
      exact ⟨1, t, Nat.le_add_left 1 k, reaches_one h, ht, hdone.2 (.inl ht)⟩
    | true =>
      rw [List.countP_cons] at hwork
      obtain ⟨j, u, hj, hreach, hend⟩ :=
        ih t (stepKeepsJobInv s t hs h) ht hnr (workLeft_le_of_step hs hb hr h ht hwork)
      exact ⟨j + 1, u, Nat.succ_le_succ hj, (reaches_succ h).2 hreach, hend⟩

/-! REMAIN read in two halves. -/

/-- The job runs, without a reset, in each of the next `k` cycles. -/
def RunsFor (k : Nat) (s : State) : Prop :=
  ∀ i, i < k → ∀ u, reaches i s u → u.block.busy = true ∧ u.input.rst = false

theorem RunsFor.take (h : RunsFor (j + k) s) : RunsFor j s :=
  fun i hi => h i (Nat.lt_add_right k hi)

theorem RunsFor.drop (h : RunsFor (j + k) s) (hreach : reaches j s t) : RunsFor k t :=
  fun i hi u hu => h (j + i) (Nat.add_lt_add_left hi j) u ((reaches_add hreach).2 hu)

theorem RunsFor.remain_le (h : RunsFor k s) (hreach : reaches k s t) :
    t.block.remain.toNat ≤ s.block.remain.toNat := by
  induction k generalizing s with
  | zero =>
    obtain rfl := (reaches_zero t).1 hreach
    exact le_rfl
  | succ k ih =>
    obtain ⟨u, hstep⟩ := exists_step s
    obtain ⟨hb, hr⟩ := h 0 k.succ_pos s ((reaches_zero s).2 rfl)
    rw [Nat.add_comm] at h
    exact (ih (h.drop (reaches_one hstep)) ((reaches_succ hstep).1 hreach)).trans (step_busy_remain_le hr hb hstep)

theorem regRead_remainLo_toNat (b : Block) : (regRead b .remainLo).toNat = b.remain.toNat % 2 ^ 32 :=
  BitVec.extractLsb'_toNat 0 32 b.remain

theorem regRead_remainHi_toNat (b : Block) : (regRead b .remainHi).toNat = b.remain.toNat / 2 ^ 32 := by
  have hlt := b.remain.isLt
  simp only [regRead, BitVec.toNat_setWidth, BitVec.extractLsb'_toNat, Nat.shiftRight_eq_div_pow]
  omega

/-- Settles O53: REMAIN falls from the first read to the last, so its high half between them is the one they agree on. -/
theorem tornReadOfRemainIsDetected : Obligations.TornReadOfRemainIsDetected := by
  intro s₁ s₂ s₃ j k hrun hj hk hagree
  have hfirst : s₂.block.remain.toNat ≤ s₁.block.remain.toNat := (RunsFor.take hrun).remain_le hj
  have hsecond : s₃.block.remain.toNat ≤ s₂.block.remain.toNat := (RunsFor.drop hrun hj).remain_le hk
  have hhigh := congrArg BitVec.toNat hagree
  rw [regRead_remainHi_toNat, regRead_remainHi_toNat] at hhigh
  rw [regRead_remainHi_toNat, regRead_remainLo_toNat]
  omega

end Sys2Proof.Machine
end
